-- ==== Sys2Proof/Word.lean ====
section
/-! DEFINITION. The widths of spec/00_scope.md R9 and R12, and the enumerations that operands and
results are made of (spec/30_encoding.md R98, R99, R100). -/

namespace Sys2Proof

/-- A byte is 8 bits (R12). -/
abbrev Byte := BitVec 8

/-- The operation word `OPW = {op[7:0], arg[7:0]}` (R103). -/
abbrev OpWord := BitVec 16

/-- A number of `SIZE_W = 32` bits (R9). -/
abbrev Size := BitVec 32

/-- A diagnostic counter, `CNT_W = 32` bits, wrapping (R9, R69). -/
abbrev Counter := BitVec 32

/-- A formatted frame, `W_FMT = 32` bits (R9, R93). -/
abbrev FmtWord := BitVec 32

/-- One bit as a number of width `n`, zero extended. -/
def bitOf (n : Nat) (b : Bool) : BitVec n := (BitVec.ofBool b).setWidth n

/-- The status values of R98, by name. -/
inductive Status where
  | ok | badParam | bufferFull | bufferEmpty | internalError | userFn | cbFailed | txUnregistered
  deriving DecidableEq, Repr

/-- The numbers the spec gives the statuses (R98; the spec's own choice, its D23). -/
def Status.code : Status → Nat
  | .ok => 0 | .badParam => 1 | .bufferFull => 2 | .bufferEmpty => 3
  | .internalError => 4 | .userFn => 5 | .cbFailed => 6 | .txUnregistered => 7

/-- The bus-state enumeration (10_state R27). -/
inductive BusState where
  | idle | wait | rx | tx | unknown
  deriving DecidableEq, Repr

/-- The numbers of the bus states (R99). -/
def BusState.code : BusState → BitVec 3
  | .idle => 0 | .wait => 1 | .rx => 2 | .tx => 3 | .unknown => 4

/-- The states of the receive machine of the framer (44_packet_framer R212). -/
inductive RxState where
  | waitSelf | waitDest | waitOp | waitLen | waitData
  deriving DecidableEq, Repr

/-- The numbers of the receive states (R100). -/
def RxState.code : RxState → BitVec 3
  | .waitSelf => 0 | .waitDest => 1 | .waitOp => 2 | .waitLen => 3 | .waitData => 4

/-- The two agents of 00_scope R10: the interrupt agent and the foreground agent. -/
inductive Agent where
  | irq | fg
  deriving DecidableEq, Repr

/-- Which agent may perform an operation (the column `agent` of R103). -/
inductive Performer where
  | irqOnly | fgOnly | anyAgent
  deriving DecidableEq, Repr

/-- `p.allows a`: the agent `a` may perform an operation of performer `p` (60_exceptions R243). -/
def Performer.allows : Performer → Agent → Bool
  | .irqOnly, a => a == .irq
  | .fgOnly, a => a == .fg
  | .anyAgent, _ => true

/-- The protocol transmit callback of R210: none, `PHY.WRITE` of this block (the reference
integration), or a function of the application, known by a number. -/
inductive TxCallback where
  | absent
  | phyWrite
  | user (handle : Nat)
  deriving DecidableEq, Repr

end Sys2Proof
end

