-- ==== Sys2Proof/Config.lean ====
section
/-! DEFINITION. What an implementation fixes (spec/00_scope.md R9) and the free values: constants
without a body that stand for what the spec leaves open. -/

namespace Sys2Proof.Config

/-- Samples per frame (R9). -/
def nSamples : Nat := 22

/-- Logical positions per frame (R9). -/
def nLogical : Nat := 11

/-- Packet header length in bytes (R9). -/
def hdrLen : Nat := 4

/-- Largest payload length; also the number of bytes of `K.pkt.data` (R9, 10_state R39). -/
def maxPayload : Nat := 255

/-- `SIZE_MAX = 2^SIZE_W - 1` (R9). -/
def sizeMax : Nat := 2 ^ 32 - 1

/-- The two readings of `CLEAR_EMPTY_STATUS` (R9, 90_conflicts C9). -/
inductive ClearEmpty where
  | bufferEmpty
  | ok
  deriving DecidableEq, Repr

/-- The status that `FIFO.CLEAR` returns on an empty buffer (40_fifo R136). -/
def ClearEmpty.status : ClearEmpty → Status
  | .bufferEmpty => .bufferEmpty
  | .ok => .ok

/-- The parameters R9 leaves OPEN. They are the `params` of `PHY.INIT` (42_phy_rx R171) and stand in
State, so that a statement about every state is a statement about every parameter (log entry 1). -/
structure Params where
  /-- `FIFO_CAP` -/
  fifoCap : Nat
  /-- `TXBUF_CAP` -/
  txbufCap : Nat
  /-- `CLEAR_EMPTY_STATUS` -/
  clearEmpty : ClearEmpty
  /-- `EDGE_PENDING_ON_REARM` -/
  edgePendingOnRearm : Bool
  /-- `RST_ACTIVE_LEVEL` -/
  rstActiveLevel : Bool
  /-- `BAUD` -/
  baud : Nat
  /-- Whether the environment offers decoder events on their own that start or end a frame of an initialised
  block. The model's own parameter: 30_encoding R103 gives these events to the interrupt agent, and 00_scope R10,
  10_state R36 and 92_eei_decisions D1 have them only inside `PHY.EDGEIRQ` and `PHY.TICK` (log entry 15). -/
  loneDecoderEvents : Bool
  deriving DecidableEq, Repr

/-- The parameters in the model's reset state. DESIGN CHOICE, unsafe: the spec gives `FIFO_CAP`,
`TXBUF_CAP`, `RST_ACTIVE_LEVEL` and `BAUD` no value; `CLEAR_EMPTY_STATUS` and `EDGE_PENDING_ON_REARM` have the
spec's defaults (log 1). `loneDecoderEvents` is false, as 10_state R36 needs (log 15). -/
def defaults : Params where
  fifoCap := 16
  txbufCap := 259
  clearEmpty := .bufferEmpty
  edgePendingOnRearm := false
  rstActiveLevel := false
  baud := 9600
  loneDecoderEvents := false

/-- Free value: `P.tick_period` as a function of `BAUD`; no formula in the spec (10_state R35, 91 N9). -/
opaque tickPeriodOf : Nat → Nat

/-- Free value: `P.center_offset` as a function of `BAUD`; no formula in the spec (10_state R35). -/
opaque centerOffsetOf : Nat → Nat

/-- Free value: the count the timer is started with for a transmission (43_phy_tx R194, 91 N9). -/
opaque txTimerCount : Nat → Nat

/-- Free value: byte `j` of a caller's buffer that is shorter than the length given (log 10). -/
opaque byteBeyondBuffer : Nat → Nat → Byte

/-- Free value: the byte that `PKT.POLL` hands on for an element that is not one byte (30_encoding R106 speaks of
one byte only; log 28). -/
opaque byteOfWideElement : List Byte → Byte

/-- Free value: the level that a tick of `PHY.TXRUN` sees when it is no read-back tick (30_encoding R106 gives the
level of the read-back ticks only; log 29). -/
opaque levelNotReadBack : Nat → Bool

/-- Free value: byte `j` of the element that is stored when the one given is not `F.esz` bytes (40_fifo R132 speaks
of one element of `F.esz` bytes; log 8). -/
opaque elementByte : Nat → Nat → Byte

/-- Free values: the fields of a freed FIFO (40_fifo R139, log 9). -/
opaque freedCap : Nat → Nat

@[inherit_doc freedCap] opaque freedElemSize : Nat → Nat

@[inherit_doc freedCap] opaque freedReadIndex : Nat → Nat

@[inherit_doc freedCap] opaque freedWriteIndex : Nat → Nat

end Sys2Proof.Config
end

