-- ==== Sys2Proof/Syntax.lean ====
section
/-! DEFINITION. The operations of the block: one constructor for each row of
spec/opcode_table.json, with all its operands, those of the word and those out of band
(spec/30_encoding.md R103). The operations of the packet framer also name the stack `K` they act on, by a
handle that goes with their first operand: more than one may exist (spec/44_packet_framer.md R210; log entry 19). -/

namespace Sys2Proof

/-- The first operand of an operation of the packet framer, with the handle of the stack `K` that the operation
acts on. -/
structure OnStack (α : Type) where
  stack : Nat
  operand : α
  deriving DecidableEq, Repr

/-- The rows of spec/opcode_table.json. -/
inductive Instr where
  /-- `FIFO.INIT capacity, elemSize` (R131) -/
  | fifoInit (capacity elemSize : Size)
  /-- `FIFO.PUSH elem` (R132): `arg` is the element of a buffer of one-byte elements; for wider
  elements `arg` is 0 and `wide` is the element. -/
  | fifoPush (arg : Byte) (wide : List Byte)
  /-- `FIFO.POP want` (R133) -/
  | fifoPop (want : Bool)
  /-- `FIFO.PEEK` (R134) -/
  | fifoPeek
  /-- `FIFO.READN maxLen` (R135) -/
  | fifoReadn (maxLen : Size)
  /-- `FIFO.CLEAR` (R136) -/
  | fifoClear
  /-- `FIFO.CAP` (R137) -/
  | fifoCap
  /-- `FIFO.LEN` (R138) -/
  | fifoLen
  /-- `FIFO.FREE` (R139) -/
  | fifoFree
  /-- `DEC.START` (R151) -/
  | decStart
  /-- `DEC.EDGE` (R152) -/
  | decEdge
  /-- `DEC.SAMPLE b` (R153, R154) -/
  | decSample (b : Bool)
  /-- `DEC.WANT` (R155) -/
  | decWant
  /-- `DEC.RESET` (R156) -/
  | decReset
  /-- `PHY.INIT` (R171) -/
  | phyInit
  /-- `PHY.TXEN e` (R172) -/
  | phyTxen (e : Bool)
  /-- `PHY.WRITE data, len` (R192) -/
  | phyWrite (data : Option (List Byte)) (len : Nat)
  /-- `PHY.READ` (R177) -/
  | phyRead
  /-- `PHY.EDGEIRQ` (R173) -/
  | phyEdgeirq
  /-- `PHY.TICK l` (R174) -/
  | phyTick (l : Bool)
  /-- `FMT B` (R190) -/
  | fmt (b : Byte)
  /-- `PKT.INIT own_addr, rx_cb, tx_cb, tx_opaque` (R210), on the stack of the handle given -/
  | pktInit (ownAddr : OnStack Byte) (rxCb : Option Nat) (txCb : TxCallback) (txOpaque : Option Nat)
  /-- `PKT.RXBYTE b` (R211) -/
  | pktRxbyte (b : OnStack Byte)
  /-- `PKT.SEND dest, opcode, data, len` (R214) -/
  | pktSend (dest : OnStack Byte) (opcode : Byte) (data : Option (List Byte)) (len : Byte)
  /-- `FRAME22` (R91): 22 samples, sample 0 the leftmost bit. -/
  | frame22 (samples : BitVec 22)
  /-- `FMTWORD` (R93): the data byte and the parity bit that the word carries. -/
  | fmtword (b : Byte) (p : Bool)
  /-- `PKTHDR` (R94): the four header bytes, for the stack of the handle given. -/
  | pkthdr (selfAddr : OnStack Byte) (destAddr operation len : Byte)
  deriving DecidableEq, Repr

end Sys2Proof
end

