-- ==== Sys2Proof/WellFormed.lean ====
section
/-! DEFINITION. The operand forms an operation word can carry (spec/30_encoding.md R103). -/

namespace Sys2Proof

/-- R103: the element of `FIFO.PUSH` is in `arg` when elements are one byte; when they are wider,
`arg` is 0 and the element, of at least two bytes, is out of band. DESIGN CHOICE (log entry 31): R101 and R103 do not
say what a decoder does with an element out of band that fits neither form, one of a single byte or one beside a
set `arg`; here it is no form of the operation, whatever `F.esz`, and the decoder refuses it. -/
def pushOperandWf (arg : Byte) (wide : List Byte) : Bool :=
  wide.isEmpty || (arg == 0 && 2 ≤ wide.length)

/-- Well-formed operands. Every other operand is bounded by its type. -/
def Instr.wf : Instr → Bool
  | .fifoPush arg wide => pushOperandWf arg wide
  | .fifoInit _ _ | .fifoPop _ | .fifoPeek | .fifoReadn _ | .fifoClear | .fifoCap | .fifoLen
  | .fifoFree | .decStart | .decEdge | .decSample _ | .decWant | .decReset | .phyInit | .phyTxen _
  | .phyWrite _ _ | .phyRead | .phyEdgeirq | .phyTick _ | .fmt _ | .pktInit _ _ _ _
  | .pktRxbyte _ | .pktSend _ _ _ _ | .frame22 _ | .fmtword _ _ | .pkthdr _ _ _ _ => true

end Sys2Proof
end

