-- ==== Sys2Proof/Decode.lean ====
section
/-! DEFINITION. Coded operations, the decoder and the encoder, from the tables of
spec/30_encoding.md R91, R93, R94 and R103 (spec/opcode_table.json). -/

namespace Sys2Proof

/-- The four formats of R90 (a packet is reached through its header, R94). -/
inductive Format where
  | opw | frame22 | fmtword | pkthdr
  deriving DecidableEq, Repr

/-- The operands that R103 marks out of band, each at its absent or zero value when not given.
That they travel beside the word in this record is the model's own form (log entry 5). -/
structure OutOfBand where
  capacity : Size := 0
  elemSize : Size := 0
  element : List Byte := []
  maxLen : Size := 0
  data : Option (List Byte) := none
  writeLen : Nat := 0
  rxCb : Option Nat := none
  txCb : TxCallback := .absent
  txOpaque : Option Nat := none
  /-- The handle of the stack `K` that a `PKT.*` operation acts on (log entry 19). -/
  stack : Nat := 0
  dest : Byte := 0
  opcode : Byte := 0
  sendLen : Byte := 0
  deriving DecidableEq, Repr

/-- A coded operation: its format, its word (the bits above the format's width are 0) and its
out-of-band operands. -/
structure Code where
  format : Format
  word : BitVec 32
  operands : OutOfBand
  deriving DecidableEq, Repr

/-- Why a code names no operation (R101, 93_implementation_defined U11). -/
inductive DecodeError where
  /-- The `op` byte is not in the table of R103. -/
  | unknownOperation (op : Byte)
  /-- A bit of `arg` that the operation does not use is set. -/
  | unusedArgBits (op arg : Byte)
  /-- A bit above the format's width is set. -/
  | wordTooWide
  /-- A fixed bit of the pattern of `FMTWORD` (R93) differs. -/
  | fixedBits
  /-- An out-of-band operand that the operation does not have is given. -/
  | unusedOperand
  /-- The operands given are not of a form the operation has (`Instr.wf`; log entry 31). -/
  | illFormed
  deriving DecidableEq, Repr

/-- An operation whose `arg` is unused: every bit of it must be 0 (R101). -/
def withoutArg (op arg : Byte) (i : Instr) : Except DecodeError Instr :=
  if arg = 0 then .ok i else .error (.unusedArgBits op arg)

/-- An operation that uses bit 0 of `arg`: the other seven must be 0 (R101). -/
def withBitArg (op arg : Byte) (f : Bool → Instr) : Except DecodeError Instr :=
  if arg.extractLsb' 1 7 = 0 then .ok (f (arg.getLsbD 0)) else .error (.unusedArgBits op arg)

/-- The table of R103, read from the `op` byte. -/
def decodeOp (op arg : Byte) (o : OutOfBand) : Except DecodeError Instr :=
  match op.toNat with
  | 0x00 => withoutArg op arg (.fifoInit o.capacity o.elemSize)
  | 0x01 => .ok (.fifoPush arg o.element)
  | 0x02 => withBitArg op arg .fifoPop
  | 0x03 => withoutArg op arg .fifoPeek
  | 0x04 => withoutArg op arg (.fifoReadn o.maxLen)
  | 0x05 => withoutArg op arg .fifoClear
  | 0x06 => withoutArg op arg .fifoCap
  | 0x07 => withoutArg op arg .fifoLen
  | 0x08 => withoutArg op arg .fifoFree
  | 0x10 => withoutArg op arg .decStart
  | 0x11 => withoutArg op arg .decEdge
  | 0x12 => withBitArg op arg .decSample
  | 0x13 => withoutArg op arg .decWant
  | 0x14 => withoutArg op arg .decReset
  | 0x20 => withoutArg op arg .phyInit
  | 0x21 => withBitArg op arg .phyTxen
  | 0x22 => withoutArg op arg (.phyWrite o.data o.writeLen)
  | 0x23 => withoutArg op arg .phyRead
  | 0x24 => withoutArg op arg .phyEdgeirq
  | 0x25 => withBitArg op arg .phyTick
  | 0x26 => .ok (.fmt arg)
  | 0x30 => .ok (.pktInit ⟨o.stack, arg⟩ o.rxCb o.txCb o.txOpaque)
  | 0x31 => .ok (.pktRxbyte ⟨o.stack, arg⟩)
  | 0x32 => withoutArg op arg (.pktSend ⟨o.stack, o.dest⟩ o.opcode o.data o.sendLen)
  | _ => .error (.unknownOperation op)

/-- The fixed bits of `FMTWORD` in the table: `(w & 0xFFFAAAAB) = 0x003AAAAA` (R93). -/
def fmtwordMatches (w : BitVec 32) : Bool := w &&& 0xFFFAAAAB#32 == 0x003AAAAA#32

/-- The data bits of a `FMTWORD`: `B[i]` is bit `2 i + 2` (R93). -/
def fmtwordByte (w : BitVec 32) : Byte :=
  bitOf 8 (w.getLsbD 2) ||| (bitOf 8 (w.getLsbD 4) <<< 1) ||| (bitOf 8 (w.getLsbD 6) <<< 2)
    ||| (bitOf 8 (w.getLsbD 8) <<< 3) ||| (bitOf 8 (w.getLsbD 10) <<< 4)
    ||| (bitOf 8 (w.getLsbD 12) <<< 5) ||| (bitOf 8 (w.getLsbD 14) <<< 6)
    ||| (bitOf 8 (w.getLsbD 16) <<< 7)

/-- The out-of-band operands that an operation has. -/
def Instr.operands : Instr → OutOfBand
  | .fifoInit capacity elemSize => { capacity, elemSize }
  | .fifoPush _ wide => { element := wide }
  | .fifoReadn maxLen => { maxLen }
  | .phyWrite data len => { data, writeLen := len }
  | .pktInit ownAddr rxCb txCb txOpaque => { stack := ownAddr.stack, rxCb, txCb, txOpaque }
  | .pktRxbyte b => { stack := b.stack }
  | .pktSend dest opcode data len => { stack := dest.stack, dest := dest.operand, opcode, data, sendLen := len }
  | .pkthdr selfAddr _ _ _ => { stack := selfAddr.stack }
  | .fifoPop _ | .fifoPeek | .fifoClear | .fifoCap | .fifoLen | .fifoFree | .decStart | .decEdge
  | .decSample _ | .decWant | .decReset | .phyInit | .phyTxen _ | .phyRead | .phyEdgeirq
  | .phyTick _ | .fmt _ | .frame22 _ | .fmtword _ _ => {}

/-- What the word alone names, by format. -/
def decodeWord (c : Code) : Except DecodeError Instr :=
  match c.format with
  | .opw =>
    if c.word.extractLsb' 16 16 = 0 then
      decodeOp (c.word.extractLsb' 8 8) (c.word.extractLsb' 0 8) c.operands
    else .error .wordTooWide
  | .frame22 =>
    if c.word.extractLsb' 22 10 = 0 then .ok (.frame22 (c.word.extractLsb' 0 22))
    else .error .wordTooWide
  | .fmtword =>
    if fmtwordMatches c.word then .ok (.fmtword (fmtwordByte c.word) (c.word.getLsbD 18))
    else .error .fixedBits
  | .pkthdr =>
    .ok (.pkthdr ⟨c.operands.stack, c.word.extractLsb' 24 8⟩ (c.word.extractLsb' 16 8)
      (c.word.extractLsb' 8 8) (c.word.extractLsb' 0 8))

/-- The decoder, total on every code: an operation, or the reason the code names none (R101). -/
def decode (c : Code) : Except DecodeError Instr :=
  match decodeWord c with
  | .error e => .error e
  | .ok i =>
    if c.operands ≠ i.operands then .error .unusedOperand
    else if i.wf then .ok i
    else .error .illFormed

/-! ## The encoder -/

/-- `OPW = {op[7:0], arg[7:0]}` (R103). -/
def opWord (op arg : Byte) : OpWord := op ++ arg

/-- The word of `FMTWORD` (R93): `0x003AAAAA` with the data bits and the parity bit put in. -/
def fmtwordBits (b : Byte) (p : Bool) : FmtWord :=
  0x003AAAAA#32 ||| (bitOf 32 (b.getLsbD 0) <<< 2) ||| (bitOf 32 (b.getLsbD 1) <<< 4)
    ||| (bitOf 32 (b.getLsbD 2) <<< 6) ||| (bitOf 32 (b.getLsbD 3) <<< 8)
    ||| (bitOf 32 (b.getLsbD 4) <<< 10) ||| (bitOf 32 (b.getLsbD 5) <<< 12)
    ||| (bitOf 32 (b.getLsbD 6) <<< 14) ||| (bitOf 32 (b.getLsbD 7) <<< 16)
    ||| (bitOf 32 p <<< 18)

/-- The format of an operation's code. -/
def Instr.format : Instr → Format
  | .frame22 _ => .frame22
  | .fmtword _ _ => .fmtword
  | .pkthdr _ _ _ _ => .pkthdr
  | .fifoInit _ _ | .fifoPush _ _ | .fifoPop _ | .fifoPeek | .fifoReadn _ | .fifoClear | .fifoCap
  | .fifoLen | .fifoFree | .decStart | .decEdge | .decSample _ | .decWant | .decReset | .phyInit
  | .phyTxen _ | .phyWrite _ _ | .phyRead | .phyEdgeirq | .phyTick _ | .fmt _ | .pktInit _ _ _ _
  | .pktRxbyte _ | .pktSend _ _ _ _ => .opw

/-- The word of an operation, from the tables of R91, R93, R94 and R103. -/
def Instr.word : Instr → BitVec 32
  | .fifoInit _ _ => (opWord 0x00 0).setWidth 32
  | .fifoPush arg _ => (opWord 0x01 arg).setWidth 32
  | .fifoPop want => (opWord 0x02 (bitOf 8 want)).setWidth 32
  | .fifoPeek => (opWord 0x03 0).setWidth 32
  | .fifoReadn _ => (opWord 0x04 0).setWidth 32
  | .fifoClear => (opWord 0x05 0).setWidth 32
  | .fifoCap => (opWord 0x06 0).setWidth 32
  | .fifoLen => (opWord 0x07 0).setWidth 32
  | .fifoFree => (opWord 0x08 0).setWidth 32
  | .decStart => (opWord 0x10 0).setWidth 32
  | .decEdge => (opWord 0x11 0).setWidth 32
  | .decSample b => (opWord 0x12 (bitOf 8 b)).setWidth 32
  | .decWant => (opWord 0x13 0).setWidth 32
  | .decReset => (opWord 0x14 0).setWidth 32
  | .phyInit => (opWord 0x20 0).setWidth 32
  | .phyTxen e => (opWord 0x21 (bitOf 8 e)).setWidth 32
  | .phyWrite _ _ => (opWord 0x22 0).setWidth 32
  | .phyRead => (opWord 0x23 0).setWidth 32
  | .phyEdgeirq => (opWord 0x24 0).setWidth 32
  | .phyTick l => (opWord 0x25 (bitOf 8 l)).setWidth 32
  | .fmt b => (opWord 0x26 b).setWidth 32
  | .pktInit ownAddr _ _ _ => (opWord 0x30 ownAddr.operand).setWidth 32
  | .pktRxbyte b => (opWord 0x31 b.operand).setWidth 32
  | .pktSend _ _ _ _ => (opWord 0x32 0).setWidth 32
  | .frame22 samples => samples.setWidth 32
  | .fmtword b p => fmtwordBits b p
  | .pkthdr selfAddr destAddr operation len => selfAddr.operand ++ destAddr ++ operation ++ len

/-- The code of an operation. -/
def encode (i : Instr) : Code := { format := i.format, word := i.word, operands := i.operands }

/-! ## The agent of an operation -/

/-- Which agent may perform an operation: the column `agent` of R103. `FMT` is a pure function, so
either agent may. The three wire formats have no agent in the table; they take the agent of the
pseudo-operation they stand for (log entries 6 and 16). -/
def Instr.performer : Instr → Performer
  | .fifoPush _ _ | .decStart | .decEdge | .decSample _ | .decWant | .decReset | .phyEdgeirq
  | .phyTick _ | .frame22 _ | .fmtword _ _ => .irqOnly
  | .fifoCap | .fifoLen | .fmt _ => .anyAgent
  | .fifoInit _ _ | .fifoPop _ | .fifoPeek | .fifoReadn _ | .fifoClear | .fifoFree | .phyInit
  | .phyTxen _ | .phyWrite _ _ | .phyRead | .pktInit _ _ _ _ | .pktRxbyte _
  | .pktSend _ _ _ _ | .pkthdr _ _ _ _ => .fgOnly

/-- An agent that may perform an operation: the one offered to it when the agent is not named. -/
def Instr.defaultAgent (i : Instr) : Agent :=
  match i.performer with
  | .irqOnly => .irq
  | .fgOnly | .anyAgent => .fg

/-! ## Words as the operation table numbers them -/

/-- The code of a word of `nbits` bits with no out-of-band operand given. The format is told from
the length: 16 bits an `OPW`, 22 (24 in whole bytes) a `FRAME22`, 32 a `FMTWORD` when its fixed
bits are there and a `PKTHDR` otherwise (log entry 7). -/
def tableCode (nbits w : Nat) : Code :=
  let word := BitVec.ofNat 32 w
  { format :=
      if nbits ≤ 16 then .opw
      else if nbits ≤ 24 then .frame22
      else if fmtwordMatches word then .fmtword
      else .pkthdr
    word := word
    operands := {} }

/-- The operation that the decoder reads from a word numbered as spec/opcode_table.json numbers it. -/
def decodeTableWord (nbits w : Nat) : Option Instr :=
  match decode (tableCode nbits w) with
  | .ok i => some i
  | .error _ => none

end Sys2Proof
end

