-- ==== Sys2Proof/Machine/State.lean ====
section
/-! DEFINITION. The state of the block as plain data (spec/10_state.md R20 to R42), its faults and
refusals, and its value before any initialisation. -/

namespace Sys2Proof.Machine

/-! ## Storage arrays -/

/-- A storage array (20_memory R60) as a list of (index, element) pairs in one canonical form:
indices strictly rising, no element equal to what an unlisted index reads as. `Cells 8` is
`List Host.Cell`. -/
abbrev Cells (w : Nat) := List (Nat × BitVec w)

/-- What an unlisted element reads as. DESIGN CHOICE, unsafe: the spec leaves the contents of storage
that nothing has written unspecified (10_state R42, 93_implementation_defined U5; log entry 3). -/
def unlisted (w : Nat) : BitVec w := 0

/-! ## The units -/

/-- The FIFO `F` (10_state R22). Byte `j` of slot `i` of `F.store` has index `i * F.esz + j`. -/
structure Fifo where
  /-- `F.cap` -/
  cap : Nat
  /-- `F.esz` -/
  esz : Nat
  /-- `F.store` -/
  store : List Host.Cell
  /-- `F.rd` -/
  rd : Nat
  /-- `F.wr` -/
  wr : Nat
  /-- `F.valid` -/
  valid : Bool
  deriving DecidableEq, Repr

/-- The decoder `D` (10_state R24). -/
structure Decoder where
  /-- `D.ongoing` -/
  ongoing : Bool
  /-- `D.expecting_edge` -/
  expectingEdge : Bool
  /-- `D.expecting_offduty_bit` -/
  expectingOffduty : Bool
  /-- `D.sampled_total_bit_cnt` -/
  totalCnt : BitVec 5
  /-- `D.sampled_data_bit_cnt` -/
  dataCnt : BitVec 3
  /-- `D.data` -/
  data : Byte
  /-- `D.error_flags` -/
  errorFlags : Byte
  deriving DecidableEq, Repr

/-- The decoder's reset value: all fields 0 (10_state R26). -/
def Decoder.zero : Decoder where
  ongoing := false
  expectingEdge := false
  expectingOffduty := false
  totalCnt := 0
  dataCnt := 0
  data := 0
  errorFlags := 0

/-- The orchestrator `P` without its FIFO and decoder (10_state R27 to R35). -/
structure Phy where
  /-- `P.bus_state` -/
  busState : BusState
  /-- `P.timer_running`, the signal `timer_run` -/
  timerRunning : Bool
  /-- `P.edge_irq_enabled`, the signal `edge_en` -/
  edgeIrqEnabled : Bool
  /-- The edge that the external detector remembers, when it does (10_state R40 i). -/
  edgePending : Bool
  /-- `P.tx_enabled` -/
  txEnabled : Bool
  /-- `P.rst_line`, the signal `rst` -/
  rstLine : Bool
  /-- `P.txbuf` -/
  txbuf : Cells 32
  /-- `P.tx_len` -/
  txLen : Nat
  /-- `P.tx_byte_cur` -/
  txByteCur : Nat
  /-- `P.tx_bit_cur` -/
  txBitCur : BitVec 5
  /-- `P.collate` -/
  collate : Bool
  /-- `P.last_tx_bit` -/
  lastTxBit : Bool
  /-- `P.log_start` -/
  logStart : Counter
  /-- `P.log_parity` -/
  logParity : Counter
  /-- `P.log_stop` -/
  logStop : Counter
  /-- `P.log_offduty` -/
  logOffduty : Counter
  /-- `P.log_overflow` -/
  logOverflow : Counter
  /-- `P.log_reentrant` -/
  logReentrant : Counter
  /-- `P.din`, the signal `din` -/
  din : Bool
  /-- `P.tick_period` -/
  tickPeriod : Nat
  /-- `P.center_offset` -/
  centerOffset : Nat
  /-- The signal `timer_load`: the count of the first period after the latest start (60_exceptions R246). -/
  timerLoad : Nat
  deriving DecidableEq, Repr

/-- A packet as a callback sees it (10_state R39): exactly the meaningful bytes of `data`. -/
structure Packet where
  selfAddr : Byte
  destAddr : Byte
  operation : Byte
  len : Byte
  data : List Byte
  deriving DecidableEq, Repr

/-- A packet framer `K` (10_state R37, R39). -/
structure Framer where
  /-- `PKT.INIT` has been performed (30_encoding R102). -/
  constructed : Bool
  /-- `K.own_addr` -/
  ownAddr : Byte
  /-- `K.rx_cb`: none, or a function of the application known by a number -/
  rxCb : Option Nat
  /-- `K.tx_cb` -/
  txCb : TxCallback
  /-- `K.tx_opaque` -/
  txOpaque : Option Nat
  /-- `K.rx_state` -/
  rxState : RxState
  /-- `K.pkt.self_addr` -/
  pktSelf : Byte
  /-- `K.pkt.dest_addr` -/
  pktDest : Byte
  /-- `K.pkt.operation` -/
  pktOperation : Byte
  /-- `K.pkt.len` -/
  pktLen : Byte
  /-- `K.pkt.data` -/
  pktData : List Host.Cell
  /-- `K.data_cnt` -/
  dataCnt : Byte
  /-- `K.unhandled_cnt` -/
  unhandledCnt : Counter
  deriving DecidableEq, Repr

/-! ## What the foreground is inside of, inputs, answers -/

/-- What the foreground agent is inside of, innermost first in `State.fg`. -/
inductive FgFrame where
  /-- a `PHY.WRITE` that a `PKT.SEND` has called as its transmit callback, before its check step
  (44_packet_framer R210, R214; 43_phy_tx R193) -/
  | writeCheck (data : Option (List Byte)) (len : Nat)
  /-- a `PHY.WRITE` between its check step and its begin step (43_phy_tx R192, R194), and whether it is the
  transmit callback of a `PKT.SEND` -/
  | writeBegin (data : Option (List Byte)) (len : Nat) (inSend : Bool)
  /-- the wait step of `PHY.WRITE` (43_phy_tx R196), and whether it is the transmit callback of a `PKT.SEND` -/
  | write (inSend : Bool)
  /-- an application transmit callback called by `PKT.SEND` (44_packet_framer R214) -/
  | sendCb
  /-- the receive callback that `PKT.RXBYTE` on this stack has called (44_packet_framer R213) -/
  | recvCb (stack : Nat)
  /-- `PKT.POLL` for this stack (30_encoding R106), with the byte it has read and not yet handed on -/
  | poll (stack : Nat) (next : Option Byte)
  /-- `PKT.RXBUF` for this stack (30_encoding R106), with the bytes to come and whether one has returned
  `CbFailed` -/
  | rxbuf (stack : Nat) (rest : List Byte) (failed : Bool)
  deriving DecidableEq, Repr

/-- The pseudo-operations of 30_encoding R106. A frame of samples is given sample 0 first. -/
inductive Pseudo where
  | decFrame (samples : BitVec 22)
  | decFeed (b : Byte)
  | phyRxframe (samples : BitVec 22)
  | phyRxbyte (b : Byte)
  | phyTxrun (n : Nat)
  | pktRxbuf (stack : Nat) (bytes : List Byte)
  | pktPoll (stack : Nat)
  deriving DecidableEq, Repr

/-- One input of an agent (log entry 4). -/
inductive Input where
  /-- an operation offered to the agent, coded -/
  | op (c : Code)
  /-- a pseudo-operation of a written program -/
  | pseudo (p : Pseudo)
  /-- a tick of a `PHY.TXRUN` (30_encoding R106), whose level is known when it is performed -/
  | txrunTick
  /-- the innermost application callback returns with a status (10_state R41) -/
  | cbReturn (st : Status)
  deriving DecidableEq, Repr

/-- The result of a decoder event (41_rx_decoder R150). -/
structure DecResult where
  accepted : Bool
  finished : Bool
  data : Byte
  errorFlags : Byte
  deriving DecidableEq, Repr

/-- `ACCEPT` of 41_rx_decoder R150. -/
def DecResult.accept : DecResult := ⟨true, false, 0, 0⟩

/-- `REJECT` of 41_rx_decoder R150. -/
def DecResult.reject : DecResult := ⟨false, false, 0, 0⟩

/-- What the latest step answered (00_scope R11, R16, R17). -/
inductive Response where
  /-- nothing is returned -/
  | nothing
  /-- no step: a masked event (60_exceptions R240), or one that is not offered (log entry 15) -/
  | noStep
  /-- the foreground is held (43_phy_tx R196) -/
  | held
  /-- the operation has called a callback, or waits, and has not returned yet -/
  | inProgress
  | status (st : Status)
  /-- `OK` and an element (40_fifo R133, R134) -/
  | element (bytes : List Byte)
  /-- `OK`, a count and that many elements (40_fifo R135) -/
  | elements (n : Nat) (es : List (List Byte))
  /-- `OK` and a number (40_fifo R137, R138) -/
  | number (n : Nat)
  | decoder (r : DecResult)
  /-- the bit of `DEC.WANT` (41_rx_decoder R155) -/
  | bit (b : Bool)
  /-- the word of `FMT` (43_phy_tx R190) -/
  | word (w : FmtWord)
  deriving DecidableEq, Repr

/-- One call of the application receive callback, with its two arguments (44_packet_framer R213). -/
structure RxCall where
  callback : Nat
  stackHandle : Nat
  packet : Packet
  deriving DecidableEq, Repr

/-- One call of the protocol transmit callback, with its three arguments (44_packet_framer R214). -/
structure TxCall where
  callback : TxCallback
  bytes : List Byte
  length : Nat
  opaqueState : Option Nat
  deriving DecidableEq, Repr

/-! ## The state -/

/-- The whole machine. -/
structure State where
  /-- the OPEN parameters (00_scope R9); no step writes them -/
  params : Config.Params
  /-- `P.fifo` -/
  fifo : Fifo
  /-- `D` -/
  dec : Decoder
  /-- `P` -/
  phy : Phy
  /-- `G.instance_active` (10_state R34) -/
  instanceActive : Bool
  /-- the framers `K`, each at its handle (44_packet_framer R210); `State.framer` reads one -/
  framers : List Framer
  /-- what the foreground is inside of, innermost first -/
  fg : List FgFrame
  /-- which agent moves next, and after it (20_memory R72); the model's own, log entry 4 -/
  sched : List Agent
  /-- the inputs to come of the interrupt agent; the model's own, log entry 4 -/
  irqIn : List Input
  /-- the inputs to come of the foreground agent; the model's own, log entry 4 -/
  fgIn : List Input
  /-- what the latest step answered; the model's own, log entry 17 -/
  resp : Response
  /-- the levels driven on the output line so far, oldest first; the model's own, log entry 17 -/
  driven : List Bool
  /-- the receive-callback calls so far, oldest first; the model's own, log entry 17 -/
  rxCalls : List RxCall
  /-- the transmit-callback calls so far, oldest first; the model's own, log entry 17 -/
  txCalls : List TxCall
  /-- how many free values have been drawn; the model's own, log entries 8, 9, 10, 11 and 29 -/
  freeCtr : Nat
  deriving DecidableEq, Repr

/-- The faults. The block itself has none (20_memory R62, 60_exceptions R230): these three guard the
three arrays against an index outside them, in states that no run reaches. Safe. -/
inductive Fault where
  /-- `FIFO.PUSH`, `FIFO.POP` or `FIFO.PEEK` with an index above `F.cap`. Safe (log entry 18). -/
  | fifoIndex
  /-- A Tx tick with `P.tx_byte_cur` not below `TXBUF_CAP`. Safe (log entry 18). -/
  | txbufIndex
  /-- `PKT.RXBYTE` in WaitData with `K.data_cnt` above 254. Safe (log entry 18). -/
  | payloadIndex
  deriving DecidableEq, Repr

/-- The refusals: what the spec gives no meaning (00_scope R17, 30_encoding R102). All are safe. -/
inductive Refusal where
  /-- An operation whose arm of exec has no meaning yet. Raised by exec. Safe. -/
  | notModelled (mnemonic : String)
  /-- A `PHY.*` operation other than `PHY.INIT` before `PHY.INIT` returned `OK` (R102, R170). Safe. -/
  | phyNotInitialised
  /-- A FIFO access with `F.valid == 0` (R102, R130). Safe. -/
  | fifoNotValid
  /-- `FIFO.INIT`, or the one inside `PHY.INIT`, with `F.valid == 1` (R131). Safe. -/
  | fifoAlreadyValid
  /-- A `PKT.*` operation other than `PKT.INIT` on a stack before its `PKT.INIT` (R102). Safe. -/
  | framerNotConstructed
  /-- The check or the begin of `PHY.WRITE` with something to send and the bus not Idle (R102, R193, R194;
  93_implementation_defined U1, U2). Safe. -/
  | writeNotIdle
  /-- `PHY.TICK` with the timer running and the bus neither Rx nor Tx (R102, R174). Safe. -/
  | tickOutsideRxTx
  /-- `PKT.RXBYTE` on a stack from inside its own receive callback (R102, R211; 60_exceptions R242). Safe. -/
  | reentrantRxbyte
  /-- An operation performed by the wrong agent (R243). Raised by step. Safe. -/
  | wrongAgent
  /-- A code that names no operation (R101). Raised by step; and by `FIFO.PUSH`, of whose `arg` only `F.esz` tells
  whether it is used (R103). Safe. -/
  | invalidWord (e : DecodeError)
  /-- A callback return with no application callback running. Raised by step. Safe. -/
  | noCallback
  deriving DecidableEq, Repr

/-- The outcome of a step of this machine. -/
abbrev Out := Host.Outcome State Fault Refusal

/-! ## The machine before any initialisation -/

/-- The FIFO before `FIFO.INIT`: not valid (R130); the other fields DESIGN CHOICE (log entry 2). -/
def Fifo.unconstructed : Fifo where
  cap := 0
  esz := 0
  store := []
  rd := 0
  wr := 0
  valid := false

/-- The orchestrator before `PHY.INIT`: `Unknown` (10_state R42), both interrupts disabled
(60_exceptions R236); the other fields DESIGN CHOICE (log entry 2). -/
def Phy.uninitialised : Phy where
  busState := .unknown
  timerRunning := false
  edgeIrqEnabled := false
  edgePending := false
  txEnabled := false
  rstLine := false
  txbuf := []
  txLen := 0
  txByteCur := 0
  txBitCur := 0
  collate := false
  lastTxBit := true
  logStart := 0
  logParity := 0
  logStop := 0
  logOffduty := 0
  logOverflow := 0
  logReentrant := 0
  din := true
  tickPeriod := 0
  centerOffset := 0
  timerLoad := 0

/-- A framer before its `PKT.INIT`: not constructed; the other fields DESIGN CHOICE (log entry 2). -/
def Framer.unconstructed : Framer where
  constructed := false
  ownAddr := 0
  rxCb := none
  txCb := .absent
  txOpaque := none
  rxState := .waitSelf
  pktSelf := 0
  pktDest := 0
  pktOperation := 0
  pktLen := 0
  pktData := []
  dataCnt := 0
  unhandledCnt := 0

/-- The machine before any initialisation (10_state R42, 70_reset_and_hazards R260): no instance
active, bus state `Unknown`, nothing constructed, no input offered. Every value the spec leaves
unspecified there is DESIGN CHOICE (log entries 1, 2 and 3). -/
def State.reset : State where
  params := Config.defaults
  fifo := Fifo.unconstructed
  dec := Decoder.zero
  phy := Phy.uninitialised
  instanceActive := false
  framers := []
  fg := []
  sched := []
  irqIn := []
  fgIn := []
  resp := .nothing
  driven := []
  rxCalls := []
  txCalls := []
  freeCtr := 0

end Sys2Proof.Machine
end

