-- ==== Sys2Proof/Machine/Flags.lean ====
section
/-! DEFINITION. Parity and the error-flag mask (spec/30_encoding.md R92, R97). -/

namespace Sys2Proof.Machine

/-- `parity(B)`: the exclusive or of the eight bits (R92). -/
def parity (b : Byte) : Bool :=
  b.getLsbD 0 ^^ b.getLsbD 1 ^^ b.getLsbD 2 ^^ b.getLsbD 3 ^^ b.getLsbD 4 ^^ b.getLsbD 5
    ^^ b.getLsbD 6 ^^ b.getLsbD 7

/-- StartBitSample, bit 0 of the mask (R97). -/
def flagStart : Byte := 0x01

/-- ParityError, bit 1 of the mask (R97). -/
def flagParity : Byte := 0x02

/-- StopBitSample, bit 2 of the mask (R97). -/
def flagStop : Byte := 0x04

/-- OffdutySample, bit 3 of the mask (R97). -/
def flagOffduty : Byte := 0x08

/-- Sets the flags of `mask` when `failed`; flags are only ever set within a frame (41_rx_decoder R153). -/
def raiseFlag (failed : Bool) (mask flags : Byte) : Byte :=
  if failed then flags ||| mask else flags

/-- A counter that counts when `event`: `c <- (c + 1) mod 2^CNT_W` (20_memory R69). -/
def countIf (event : Bool) (c : Counter) : Counter :=
  if event then c + 1 else c

end Sys2Proof.Machine
end

