-- ==== Sys2Proof/Machine/Operands.lean ====
section
/-! DEFINITION. How operands are read: the element of a push and the buffer of a caller
(spec/40_fifo.md R132, spec/43_phy_tx.md R193, spec/44_packet_framer.md R214). -/

namespace Sys2Proof.Machine

/-- The element operand of `FIFO.PUSH`: in `arg` when `F.esz == 1`, else out of band with `arg` 0
(30_encoding R103); `none` when it is not one element of `F.esz` bytes. -/
def elementOperand (esz : Nat) (arg : Byte) (wide : List Byte) : Option (List Byte) :=
  if esz = 1 then (if wide = [] then some [arg] else none)
  else if arg = 0 ∧ wide.length = esz then some wide
  else none

/-- `arg` of a `FIFO.PUSH` is unused when `F.esz != 1` (30_encoding R103), and then a set bit of it makes a word that
names no operation (R101). -/
def pushArgInvalid (esz : Nat) (arg : Byte) : Bool := esz != 1 && arg != 0

/-- An element of `F.esz` bytes, every byte free: what is stored when the operand is not one element of `F.esz`
bytes, of which 40_fifo R132 says nothing (log entry 8). -/
def freeElement (draw esz : Nat) : List Byte := (List.range esz).map (Config.elementByte draw)

/-- `len > 0` with the buffer absent (43_phy_tx R193, 44_packet_framer R214). -/
def bufferMissing (data : Option (List Byte)) (len : Nat) : Bool :=
  0 < len && data.isNone

/-- `data[j]`. The spec does not say what a byte beyond the string given is: it is free (log entry 10). -/
def bufferByte (draw : Nat) (data : Option (List Byte)) (j : Nat) : Byte :=
  match (data.getD [])[j]? with
  | some b => b
  | none => Config.byteBeyondBuffer draw j

/-- `data[0 .. len-1]`. -/
def bufferBytes (draw : Nat) (data : Option (List Byte)) (len : Nat) : List Byte :=
  (List.range len).map (bufferByte draw data)

end Sys2Proof.Machine
end

