-- ==== Sys2Proof/Machine/Ops.lean ====
section
/-! DEFINITION. The operations that meanings share: the storage arrays, the FIFO, the decoder, the
bus-state machine, the shifter and the framer, each from its rule.

The block takes no exception (spec/60_exceptions.md R230, R241, R242): nothing is saved, no vector is
fetched and nothing returns. Its nearest counterpart, what it does when an event is out of sequence
and the orchestrator must recover, is `resynchronise` (spec/42_phy_rx.md R178). -/

namespace Sys2Proof.Machine

/-! ## Named updates of the state -/

def State.setFifo (s : State) (f : Fifo) : State := { s with fifo := f }

def State.setDec (s : State) (d : Decoder) : State := { s with dec := d }

def State.setPhy (s : State) (p : Phy) : State := { s with phy := p }

/-- The framer `K` of a stack handle: not constructed before its `PKT.INIT` (44_packet_framer R210). -/
def State.framer (s : State) (stack : Nat) : Framer :=
  s.framers[stack]?.getD Framer.unconstructed

/-- Puts a framer at its handle; a handle below it that no `PKT.INIT` has constructed stays so. -/
def framerPut : Nat → Framer → List Framer → List Framer
  | 0, k, [] => [k]
  | 0, k, _ :: ks => k :: ks
  | n + 1, k, [] => Framer.unconstructed :: framerPut n k []
  | n + 1, k, k' :: ks => k' :: framerPut n k ks

/-- Writes the framer of one stack; every other stack has its own (44_packet_framer R210). -/
def State.setFramer (s : State) (stack : Nat) (k : Framer) : State :=
  { s with framers := framerPut stack k s.framers }

def State.setFg (s : State) (fs : List FgFrame) : State := { s with fg := fs }

/-- `G.instance_active <- 1` (10_state R34; nothing clears it). -/
def State.activate (s : State) : State := { s with instanceActive := true }

def State.setIrqIn (s : State) (is : List Input) : State := { s with irqIn := is }

def State.setFgIn (s : State) (is : List Input) : State := { s with fgIn := is }

def State.setSched (s : State) (as : List Agent) : State := { s with sched := as }

/-- Answers `r` (00_scope R16). -/
def State.respond (s : State) (r : Response) : State := { s with resp := r }

/-- Notes a level driven on the output line (00_scope R11). -/
def State.noteDriven (s : State) (b : Bool) : State := { s with driven := s.driven ++ [b] }

/-- Notes a call of the receive callback (00_scope R11). -/
def State.noteRxCall (s : State) (c : RxCall) : State := { s with rxCalls := s.rxCalls ++ [c] }

/-- Notes a call of the transmit callback (00_scope R11). -/
def State.noteTxCall (s : State) (c : TxCall) : State := { s with txCalls := s.txCalls ++ [c] }

/-- Moves on to the next free value. -/
def State.drawFree (s : State) : State := { s with freeCtr := s.freeCtr + 1 }

/-! ## Storage arrays (20_memory R60) -/

/-- `A[i]` (00_scope R15). -/
def cellRead {w : Nat} : Cells w → Nat → BitVec w
  | [], _ => unlisted w
  | (k, v) :: cs, i => if k = i then v else cellRead cs i

/-- Lists element `v` at index `i`, in order. -/
def cellInsert {w : Nat} (i : Nat) (v : BitVec w) : Cells w → Cells w
  | [] => [(i, v)]
  | (k, u) :: cs =>
    if i < k then (i, v) :: (k, u) :: cs
    else if i = k then (i, v) :: cs
    else (k, u) :: cellInsert i v cs

/-- Takes index `i` off the list. -/
def cellRemove {w : Nat} (i : Nat) : Cells w → Cells w
  | [] => []
  | (k, u) :: cs => if i = k then cs else (k, u) :: cellRemove i cs

/-- `A[i] <- v` (00_scope R15), keeping the canonical form. -/
def cellWrite {w : Nat} (i : Nat) (v : BitVec w) (c : Cells w) : Cells w :=
  if v = unlisted w then cellRemove i c else cellInsert i v c

/-- `MemWrite(A, i, n, v)`: consecutive elements from index `i` (00_scope R15). -/
def cellWriteAll {w : Nat} (i : Nat) : List (BitVec w) → Cells w → Cells w
  | [], c => c
  | v :: vs, c => cellWriteAll (i + 1) vs (cellWrite i v c)

/-- `MemRead(A, i, n)` (00_scope R15). -/
def cellReadAll {w : Nat} (c : Cells w) (i n : Nat) : List (BitVec w) :=
  (List.range n).map fun j => cellRead c (i + j)

/-- The canonical form of a storage array. -/
def cellsWf {w : Nat} (c : Cells w) : Bool :=
  decide (c.Pairwise fun a b => a.1 < b.1) && c.all fun e => e.2 != unlisted w

/-- The storage arrays of the block are in canonical form, the payload array of every stack among them. -/
def Memory.wf (s : State) : Bool :=
  cellsWf s.fifo.store && cellsWf s.phy.txbuf && s.framers.all fun k => cellsWf k.pktData

/-! ## The FIFO (10_state R22, R23; 40_fifo) -/

/-- `(i + 1) mod (F.cap + 1)` (20_memory R68). -/
def fifoNext (f : Fifo) (i : Nat) : Nat := (i + 1) % (f.cap + 1)

/-- `len(F) = (F.wr - F.rd) mod (F.cap + 1)` (10_state R23). -/
def fifoLength (f : Fifo) : Nat := (f.wr + (f.cap + 1) - f.rd % (f.cap + 1)) % (f.cap + 1)

/-- The element in slot `i` (20_memory R61). -/
def fifoSlot (f : Fifo) (i : Nat) : List Byte := cellReadAll f.store (i * f.esz) f.esz

/-- The oldest `n` elements, oldest first: slot `(F.rd + j) mod (F.cap + 1)` for each `j` (20_memory R78). -/
def fifoOldest (f : Fifo) (n : Nat) : List (List Byte) :=
  (List.range n).map fun j => fifoSlot f ((f.rd + j) % (f.cap + 1))

/-- All elements in the FIFO, oldest first. -/
def fifoContents (f : Fifo) : List (List Byte) := fifoOldest f (fifoLength f)

/-- R131, for a FIFO that is not valid. The product is exact. -/
def fifoConstruct (capacity elemSize : Nat) (f : Fifo) : Status × Fifo :=
  if capacity = Config.sizeMax then (.badParam, f)
  else if elemSize = 0 then (.badParam, f)
  else if (capacity + 1) * elemSize > Config.sizeMax then (.badParam, f)
  else (.ok, { cap := capacity, esz := elemSize, store := [], rd := 0, wr := 0, valid := true })

/-- R132, for a valid FIFO and an element of `F.esz` bytes. -/
def fifoPush (elem : List Byte) (f : Fifo) : Except Fault (Status × Fifo) :=
  if fifoNext f f.wr = f.rd then .ok (.bufferFull, f)
  else if f.wr ≤ f.cap then
    .ok (.ok, { f with store := cellWriteAll (f.wr * f.esz) elem f.store, wr := fifoNext f f.wr })
  else .error .fifoIndex

/-- A push by its operand, for `FIFO.PUSH` and for the completion of a frame. Of an operand that is not one element
of `F.esz` bytes the push stores a free element, and all else is as R132 has it (log entry 8). -/
def pushElement (operand : Option (List Byte)) (s : State) : Except Fault (Status × State) :=
  match operand with
  | some elem =>
    match fifoPush elem s.fifo with
    | .error e => .error e
    | .ok (st, f) => .ok (st, s.setFifo f)
  | none =>
    match fifoPush (freeElement s.freeCtr s.fifo.esz) s.fifo with
    | .error e => .error e
    | .ok (st, f) => .ok (st, (s.setFifo f).drawFree)

/-- R133, for a valid FIFO: `none` when empty, else the oldest element and the FIFO without it. -/
def fifoPop (f : Fifo) : Except Fault (Option (List Byte × Fifo)) :=
  if f.rd = f.wr then .ok none
  else if f.rd ≤ f.cap then .ok (some (fifoSlot f f.rd, { f with rd := fifoNext f f.rd }))
  else .error .fifoIndex

/-- R139. `F.valid` is cleared. Every other field becomes unspecified: `cap`, `esz`, `rd` and `wr`
are free values, and nothing is listed in the storage (log entries 3 and 9). -/
def fifoRelease (draw : Nat) : Fifo where
  cap := Config.freedCap draw
  esz := Config.freedElemSize draw
  store := []
  rd := Config.freedReadIndex draw
  wr := Config.freedWriteIndex draw
  valid := false

/-! ## The decoder (41_rx_decoder) -/

/-- `DEC.START` (R151). -/
def decStart (d : Decoder) : DecResult × Decoder :=
  if d.ongoing then (.reject, d)
  else (.accept, { Decoder.zero with ongoing := true })

/-- `DEC.EDGE` (R152). -/
def decEdge (d : Decoder) : DecResult × Decoder :=
  if !d.ongoing || !d.expectingEdge then (.reject, d)
  else (.accept, { d with expectingEdge := false })

/-- What a sample does to data, data-bit counter and flags at logical position `k` (R153). -/
def decLogical (b : Bool) (k : Nat) (d : Decoder) : Decoder :=
  if k = 0 then { d with dataCnt := 0, errorFlags := raiseFlag b flagStart d.errorFlags }
  else if k ≤ 8 then
    { d with data := d.data ||| (bitOf 8 b <<< d.dataCnt.toNat), dataCnt := d.dataCnt + 1 }
  else if k = 9 then { d with errorFlags := raiseFlag (b != parity d.data) flagParity d.errorFlags }
  else { d with errorFlags := raiseFlag (!b) flagStop d.errorFlags }

/-- The check or accumulation of one sample, stuffing or logical (R153). -/
def decAbsorb (b : Bool) (d : Decoder) : Decoder :=
  if d.expectingOffduty then { d with errorFlags := raiseFlag (!b) flagOffduty d.errorFlags }
  else decLogical b (d.totalCnt.toNat / 2) d

/-- The advance after a sample that is not the last (R153). -/
def decAdvance (d : Decoder) : Decoder :=
  { d with
    totalCnt := d.totalCnt + 1
    expectingOffduty := (d.totalCnt + 1).getLsbD 0
    expectingEdge := true }

/-- `DEC.SAMPLE b` (R153; the 22nd sample R154). -/
def decSample (b : Bool) (d : Decoder) : DecResult × Decoder :=
  if !d.ongoing || d.expectingEdge then (.reject, d)
  else if d.totalCnt = 21 then
    (⟨true, true, (decAbsorb b d).data, (decAbsorb b d).errorFlags⟩, Decoder.zero)
  else (.accept, decAdvance (decAbsorb b d))

/-- `DEC.WANT` (R155). -/
def decWant (d : Decoder) : Bool := d.ongoing && !d.expectingEdge

/-- The event a tick feeds in Rx (42_phy_rx R175). -/
def decFeedTick (l : Bool) (d : Decoder) : DecResult × Decoder :=
  if decWant d then decSample l d else decEdge d

/-! ## The bus-state machine (42_phy_rx R179) -/

/-- To Idle: timer stopped, edge interrupt armed (42_phy_rx R176, R178; 43_phy_tx R199). -/
def phyToIdle (p : Phy) : Phy :=
  { p with timerRunning := false, busState := .idle, edgeIrqEnabled := true }

/-- Idle to Rx: the timer is started with the count `P.center_offset` (42_phy_rx R173). -/
def phyToRx (p : Phy) : Phy :=
  { p with
    edgeIrqEnabled := false
    timerRunning := true
    timerLoad := p.centerOffset
    busState := .rx }

/-- The level of the reset line: `RST_ACTIVE_LEVEL` disables the transmitter (42_phy_rx R172). -/
def rstLevel (params : Config.Params) (enable : Bool) : Bool :=
  if enable then !params.rstActiveLevel else params.rstActiveLevel

/-- The orchestrator after a successful `PHY.INIT` (42_phy_rx R171); `P.txbuf`, `timer_load` and the
edge detector are not written. -/
def phyInitialised (params : Config.Params) (p : Phy) : Phy :=
  { p with
    din := true
    txEnabled := false
    rstLine := rstLevel params false
    tickPeriod := Config.tickPeriodOf params.baud
    centerOffset := Config.centerOffsetOf params.baud
    logStart := 0
    logParity := 0
    logStop := 0
    logOffduty := 0
    logOverflow := 0
    logReentrant := 0
    txLen := 0
    txByteCur := 0
    txBitCur := 0
    collate := false
    lastTxBit := true
    timerRunning := false
    busState := .idle
    edgeIrqEnabled := true }

/-- The counters of an erroneous frame: one per flag set (42_phy_rx R176). -/
def phyCountErrors (flags : Byte) (p : Phy) : Phy :=
  { p with
    logStart := countIf (flags.getLsbD 0) p.logStart
    logParity := countIf (flags.getLsbD 1) p.logParity
    logStop := countIf (flags.getLsbD 2) p.logStop
    logOffduty := countIf (flags.getLsbD 3) p.logOffduty }

/-- The counter of a clean byte that found the FIFO full (42_phy_rx R176). -/
def phyCountOverflow (st : Status) (p : Phy) : Phy :=
  { p with logOverflow := countIf (st == .bufferFull) p.logOverflow }

/-- What the orchestrator does when the decoder rejects a start (42_phy_rx R178). -/
def resynchronise (s : State) : State :=
  (s.setDec Decoder.zero).setPhy
    (phyToIdle { s.phy with logReentrant := s.phy.logReentrant + 1 })

/-- A falling edge while the edge interrupt is disabled: lost, or remembered by the external detector
when `EDGE_PENDING_ON_REARM` (60_exceptions R237, R240). -/
def missEdge (s : State) : State :=
  s.setPhy { s.phy with edgePending := s.phy.edgePending || s.params.edgePendingOnRearm }

/-- A falling edge while the edge interrupt is armed (42_phy_rx R173, R178). The detector's memory is
used up by it. -/
def takeEdge (s : State) : State :=
  let s' := s.setPhy { s.phy with edgePending := false }
  let r := decStart s.dec
  if r.1.accepted then (s'.setDec r.2).setPhy (phyToRx s'.phy)
  else resynchronise s'

/-- The frame is complete (42_phy_rx R176): a clean byte is pushed or counted as an overflow, an
erroneous one is counted; then Idle. A push into a FIFO that is not valid has no meaning (40_fifo R130); of a
byte for a FIFO constructed with wider elements the element stored is free (log entry 8). -/
def completeFrame (r : DecResult) (s : State) : Out :=
  if r.errorFlags = 0 then
    if !s.fifo.valid then .refused .fifoNotValid
    else
      match pushElement (elementOperand s.fifo.esz r.data []) s with
      | .error e => .fault e
      | .ok (st, s') => .next (s'.setPhy (phyToIdle (phyCountOverflow st s.phy)))
  else .next (s.setPhy (phyToIdle (phyCountErrors r.errorFlags s.phy)))

/-- A tick in Rx (42_phy_rx R175). -/
def tickRx (l : Bool) (s : State) : Out :=
  let r := decFeedTick l s.dec
  if r.1.finished then completeFrame r.1 (s.setDec r.2) else .next (s.setDec r.2)

/-! ## The shifter (43_phy_tx) -/

/-- `FMT B` (R190): sample `s` of the frame of `B` at bit `s`. -/
def formatByte (b : Byte) : FmtWord := fmtwordBits b (parity b)

/-- The bit that the next drive tick drives (R198). -/
def nextTxBit (p : Phy) : Bool := (cellRead p.txbuf p.txByteCur).getLsbD p.txBitCur.toNat

/-- The drive phase (R198). -/
def phyDrive (p : Phy) : Phy :=
  { p with din := nextTxBit p, lastTxBit := nextTxBit p, collate := true }

/-- The read-back phase (R199). The level read back is compared with `P.last_tx_bit` and the result
dropped (R201), so it is no argument here. -/
def phyReadBack (p : Phy) : Phy :=
  if p.txBitCur.toNat < 21 then { p with collate := false, txBitCur := p.txBitCur + 1 }
  else
    let q := { p with collate := false, txBitCur := 0, txByteCur := p.txByteCur + 1 }
    if q.txByteCur = q.txLen then phyToIdle q else q

/-- A tick in Tx (R197). -/
def tickTx (s : State) : Out :=
  if s.phy.collate then .next (s.setPhy (phyReadBack s.phy))
  else if s.phy.txByteCur < s.params.txbufCap then
    .next ((s.setPhy (phyDrive s.phy)).noteDriven (nextTxBit s.phy))
  else .fault .txbufIndex

/-- What the check step of `PHY.WRITE` finds (R193). -/
inductive WriteCheck where
  | refuse (r : Refusal)
  | returns (st : Status)
  | begins
  deriving DecidableEq, Repr

/-- The check step of `PHY.WRITE`, in the order of R193, after the condition of 42_phy_rx R170. -/
def writeCheck (missing : Bool) (len : Nat) (s : State) : WriteCheck :=
  if !s.instanceActive then .refuse .phyNotInitialised
  else if missing then .returns .badParam
  else if len > s.params.txbufCap then .returns .badParam
  else if len = 0 then .returns .ok
  else if s.phy.busState ≠ .idle then .refuse .writeNotIdle
  else .begins

/-- What the begin step of `PHY.WRITE` does (R194): all words formatted and stored, then Tx. The count the
timer is started with is free (log entry 11). -/
def beginTransmission (bytes : List Byte) (s : State) : State :=
  (s.setPhy
    { s.phy with
      txbuf := cellWriteAll 0 (bytes.map formatByte) s.phy.txbuf
      txLen := bytes.length
      txByteCur := 0
      txBitCur := 0
      collate := false
      edgeIrqEnabled := false
      busState := .tx
      timerRunning := true
      timerLoad := Config.txTimerCount s.freeCtr }).drawFree

/-- The begin step of `PHY.WRITE`, one atomic step taken only in Idle and with `1 <= len <= TXBUF_CAP` (R194).
An edge that has started a frame since the check leaves it without a meaning (93_implementation_defined
U1, U2). The bytes are read here and not again (20_memory R77); the wait (R196) comes next. -/
def writeBegin (data : Option (List Byte)) (len : Nat) (inSend : Bool) (fs : List FgFrame) (s : State) :
    Out :=
  if s.phy.busState = .idle ∧ 1 ≤ len ∧ len ≤ s.params.txbufCap then
    .next (((beginTransmission (bufferBytes s.freeCtr data len) s).setFg (.write inSend :: fs)).respond
      .inProgress)
  else .refused .writeNotIdle

/-! ## The framer (44_packet_framer) -/

/-- The packet in `K.pkt` as the callback sees it (R213). -/
def framerPacket (k : Framer) : Packet where
  selfAddr := k.pktSelf
  destAddr := k.pktDest
  operation := k.pktOperation
  len := k.pktLen
  data := cellReadAll k.pktData 0 k.pktLen.toNat

/-- The status that a callback's status becomes (R213, R214). -/
def callbackStatus (st : Status) : Status := if st = .ok then .ok else .cbFailed

/-- Counts a packet that is not delivered to a callback (R213). -/
def countUnhandled (stack : Nat) (k : Framer) (s : State) : State :=
  (s.setFramer stack { k with unhandledCnt := k.unhandledCnt + 1 }).respond (.status .ok)

/-- Delivery (R213), with the packet complete in `K.pkt`: the foreground enters the callback, which gets the
handle and the packet, or the packet is counted. -/
def deliver (stack : Nat) (k : Framer) (s : State) : State :=
  match k.rxCb with
  | some cb =>
    if k.pktDest = k.ownAddr then
      (((s.setFramer stack k).noteRxCall ⟨cb, stack, framerPacket k⟩).setFg
        (.recvCb stack :: s.fg)).respond .inProgress
    else countUnhandled stack k s
  | none => countUnhandled stack k s

/-- A byte that completes no packet: the framer goes on and `OK` is returned (R212). -/
def framerGoesOn (stack : Nat) (k : Framer) (s : State) : State :=
  (s.setFramer stack k).respond (.status .ok)

/-- One transition of the receive machine of a stack (R212). -/
def framerTake (stack : Nat) (b : Byte) (s : State) : Out :=
  let k := s.framer stack
  match k.rxState with
  | .waitSelf => .next (framerGoesOn stack { k with pktSelf := b, rxState := .waitDest } s)
  | .waitDest => .next (framerGoesOn stack { k with pktDest := b, rxState := .waitOp } s)
  | .waitOp => .next (framerGoesOn stack { k with pktOperation := b, rxState := .waitLen } s)
  | .waitLen =>
    if b = 0 then
      .next (deliver stack { k with pktLen := b, dataCnt := 0, rxState := .waitSelf } s)
    else .next (framerGoesOn stack { k with pktLen := b, dataCnt := 0, rxState := .waitData } s)
  | .waitData =>
    if k.dataCnt.toNat < Config.maxPayload then
      let k' := { k with pktData := cellWrite k.dataCnt.toNat b k.pktData, dataCnt := k.dataCnt + 1 }
      if k'.dataCnt = k'.pktLen then .next (deliver stack { k' with rxState := .waitSelf } s)
      else .next (framerGoesOn stack k' s)
    else .fault .payloadIndex

/-- The bytes `PKT.SEND` hands to the transmit callback (R214, 30_encoding R94). -/
def sendBytes (ownAddr dest opcode len : Byte) (payload : List Byte) : List Byte :=
  ownAddr :: dest :: opcode :: len :: payload

end Sys2Proof.Machine
end

