-- ==== Sys2Proof/Machine/Dec.lean ====
section
/-! DEFINITION. The receive decoder's events (spec/41_rx_decoder.md R151 to R156), on `D`. The decoder
touches nothing outside `D`. -/

namespace Sys2Proof.Machine

/-- Performs a decoder event and answers its record (R150). -/
def answerEvent (r : DecResult × Decoder) (s : State) : Out :=
  .next ((s.setDec r.2).respond (.decoder r.1))

/-- `DEC.START` (R151). -/
def execDecStart (s : State) : Out := answerEvent (decStart s.dec) s

/-- `DEC.EDGE` (R152). -/
def execDecEdge (s : State) : Out := answerEvent (decEdge s.dec) s

/-- `DEC.SAMPLE b` (R153, R154). -/
def execDecSample (b : Bool) (s : State) : Out := answerEvent (decSample b s.dec) s

/-- `DEC.WANT` (R155). -/
def execDecWant (s : State) : Out := .next (s.respond (.bit (decWant s.dec)))

/-- `DEC.RESET` (R156): returns nothing. -/
def execDecReset (s : State) : Out := .next ((s.setDec Decoder.zero).respond .nothing)

end Sys2Proof.Machine
end

