-- ==== Sys2Proof/Machine/Fifo.lean ====
section
/-! DEFINITION. The circular buffer's operations (spec/40_fifo.md R130 to R139), on `P.fifo`. -/

namespace Sys2Proof.Machine

/-- A FIFO operation needs `F.valid == 1` (R130). -/
def withValidFifo (s : State) (o : Out) : Out :=
  if s.fifo.valid then o else .refused .fifoNotValid

/-- Pops and answers, for `FIFO.POP` and `PHY.READ` (R133). -/
def popAndRespond (want : Bool) (s : State) : Out :=
  withValidFifo s <|
    match fifoPop s.fifo with
    | .error e => .fault e
    | .ok none => .next (s.respond (.status .bufferEmpty))
    | .ok (some (v, f)) => .next ((s.setFifo f).respond (if want then .element v else .status .ok))

/-- `FIFO.INIT capacity, elemSize` (R131). -/
def execFifoInit (capacity elemSize : Size) (s : State) : Out :=
  if s.fifo.valid then .refused .fifoAlreadyValid
  else
    let r := fifoConstruct capacity.toNat elemSize.toNat s.fifo
    .next ((s.setFifo r.2).respond (.status r.1))

/-- `FIFO.PUSH elem` (R132; a set bit of an unused `arg`, 30_encoding R101; an operand that is not one element of
`F.esz` bytes, log entry 8). -/
def execFifoPush (arg : Byte) (wide : List Byte) (s : State) : Out :=
  withValidFifo s <|
    if pushArgInvalid s.fifo.esz arg then .refused (.invalidWord (.unusedArgBits 0x01 arg))
    else
      match pushElement (elementOperand s.fifo.esz arg wide) s with
      | .error e => .fault e
      | .ok (st, s') => .next (s'.respond (.status st))

/-- `FIFO.POP want` (R133). -/
def execFifoPop (want : Bool) (s : State) : Out := popAndRespond want s

/-- `FIFO.PEEK` (R134). -/
def execFifoPeek (s : State) : Out :=
  withValidFifo s <|
    match fifoPop s.fifo with
    | .error e => .fault e
    | .ok none => .next (s.respond (.status .bufferEmpty))
    | .ok (some (v, _)) => .next (s.respond (.element v))

/-- `FIFO.READN maxLen` (R135). -/
def execFifoReadn (maxLen : Size) (s : State) : Out :=
  withValidFifo s <|
    let n := min maxLen.toNat (fifoLength s.fifo)
    .next (s.respond (.elements n (fifoOldest s.fifo n)))

/-- `FIFO.CLEAR` (R136). -/
def execFifoClear (s : State) : Out :=
  withValidFifo s <|
    .next ((s.setFifo { s.fifo with rd := s.fifo.wr }).respond
      (.status (if s.fifo.rd = s.fifo.wr then s.params.clearEmpty.status else .ok)))

/-- `FIFO.CAP` (R137). -/
def execFifoCap (s : State) : Out :=
  withValidFifo s <| .next (s.respond (.number s.fifo.cap))

/-- `FIFO.LEN` (R138). -/
def execFifoLen (s : State) : Out :=
  withValidFifo s <| .next (s.respond (.number (fifoLength s.fifo)))

/-- `FIFO.FREE` (R139). -/
def execFifoFree (s : State) : Out :=
  withValidFifo s <|
    .next (((s.setFifo (fifoRelease s.freeCtr)).drawFree).respond (.status .ok))

end Sys2Proof.Machine
end

