-- ==== Sys2Proof/Machine/PhyUnit.lean ====
section
/-! DEFINITION. The orchestrator's operations (spec/42_phy_rx.md R170 to R178, spec/43_phy_tx.md R190
to R201). -/

namespace Sys2Proof.Machine

/-- A `PHY.*` operation other than `PHY.INIT` needs `PHY.INIT` to have returned `OK` (R170). -/
def withPhyInitialised (s : State) (o : Out) : Out :=
  if s.instanceActive then o else .refused .phyNotInitialised

/-- Answers `r` when the outcome is a next state. -/
def thenRespond (r : Response) : Out → Out
  | .next s => .next (s.respond r)
  | .fault e => .fault e
  | .refused e => .refused e

/-- `PHY.INIT` (R171). Its `FIFO.INIT` has no meaning on a FIFO that is valid already (40_fifo R131). -/
def execPhyInit (s : State) : Out :=
  if s.instanceActive then .next (s.respond (.status .badParam))
  else if s.fifo.valid then .refused .fifoAlreadyValid
  else
    let r := fifoConstruct s.params.fifoCap 1 s.fifo
    if r.1 = .ok then
      .next ((((((s.setFifo r.2).setDec Decoder.zero).setPhy (phyInitialised s.params s.phy)).activate).noteDriven
        true).respond (.status .ok))
    else .next (s.respond (.status r.1))

/-- `PHY.TXEN e` (R172). -/
def execPhyTxen (e : Bool) (s : State) : Out :=
  withPhyInitialised s <|
    .next ((s.setPhy { s.phy with txEnabled := e, rstLine := rstLevel s.params e }).respond
      (.status .ok))

/-- `PHY.WRITE data, len` (R192): its first step, the check (R193). The begin (R194) and the wait (R196) are the
foreground's next turns, with the state that leads to them in `State.fg` (log entry 20). -/
def execPhyWrite (data : Option (List Byte)) (len : Nat) (s : State) : Out :=
  match writeCheck (bufferMissing data len) len s with
  | .refuse r => .refused r
  | .returns st => .next (s.respond (.status st))
  | .begins => .next ((s.setFg (.writeBegin data len false :: s.fg)).respond .inProgress)

/-- `PHY.READ` (R177): `FIFO.POP 1` on `P.fifo`. -/
def execPhyRead (s : State) : Out := withPhyInitialised s (popAndRespond true s)

/-- `PHY.EDGEIRQ` (R173, R178; masked, 60_exceptions R240). -/
def execPhyEdgeirq (s : State) : Out :=
  withPhyInitialised s <|
    if s.phy.edgeIrqEnabled then .next ((takeEdge s).respond (.status .ok))
    else .next ((missEdge s).respond .noStep)

/-- `PHY.TICK l` (R174; masked, 60_exceptions R240). -/
def execPhyTick (l : Bool) (s : State) : Out :=
  withPhyInitialised s <|
    if !s.phy.timerRunning then .next (s.respond .noStep)
    else
      match s.phy.busState with
      | .rx => thenRespond (.status .ok) (tickRx l s)
      | .tx => thenRespond (.status .ok) (tickTx s)
      | .idle | .wait | .unknown => .refused .tickOutsideRxTx

/-- `FMT B` (R190): a pure function. -/
def execFmt (b : Byte) (s : State) : Out := .next (s.respond (.word (formatByte b)))

end Sys2Proof.Machine
end

