-- ==== Sys2Proof/Machine/Pkt.lean ====
section
/-! DEFINITION. The packet framer's operations (spec/44_packet_framer.md R210 to R214), on the stack `K` of the
handle given (log entry 19). -/

namespace Sys2Proof.Machine

/-- A `PKT.*` operation other than `PKT.INIT` needs the `PKT.INIT` of its stack first (30_encoding R102). -/
def withFramer (stack : Nat) (s : State) (o : Out) : Out :=
  if (s.framer stack).constructed then o else .refused .framerNotConstructed

/-- `PKT.INIT own_addr, rx_cb, tx_cb, tx_opaque` (R210) constructs the stack; `K.pkt` is not written, nor is any
other stack. -/
def execPktInit (ownAddr : OnStack Byte) (rxCb : Option Nat) (txCb : TxCallback) (txOpaque : Option Nat)
    (s : State) : Out :=
  .next
    ((s.setFramer ownAddr.stack
      { s.framer ownAddr.stack with
        constructed := true
        ownAddr := ownAddr.operand
        rxCb := rxCb
        txCb := txCb
        txOpaque := txOpaque
        rxState := .waitSelf
        dataCnt := 0
        unhandledCnt := 0 }).respond (.status .ok))

/-- `PKT.RXBYTE b` (R211): one transition of the receive machine; refused inside the receive callback of
the same stack (60_exceptions R242). -/
def execPktRxbyte (b : OnStack Byte) (s : State) : Out :=
  withFramer b.stack s <|
    if FgFrame.recvCb b.stack ∈ s.fg then .refused .reentrantRxbyte
    else framerTake b.stack b.operand s

/-- `PKT.SEND dest, opcode, data, len` (R214). The transmit callback is called once, with the bytes: one of
the application is entered, and one that is `PHY.WRITE` is performed by the foreground's next turns (R210;
log entry 12). -/
def execPktSend (dest : OnStack Byte) (opcode : Byte) (data : Option (List Byte)) (len : Byte) (s : State) :
    Out :=
  withFramer dest.stack s <|
    if bufferMissing data len.toNat then .next (s.respond (.status .badParam))
    else
      let k := s.framer dest.stack
      let bytes := sendBytes k.ownAddr dest.operand opcode len (bufferBytes s.freeCtr data len.toNat)
      let n := Config.hdrLen + len.toNat
      let called := s.drawFree.noteTxCall ⟨k.txCb, bytes, n, k.txOpaque⟩
      match k.txCb with
      | .absent => .next (s.respond (.status .txUnregistered))
      | .user _ => .next ((called.setFg (.sendCb :: s.fg)).respond .inProgress)
      | .phyWrite =>
        .next ((called.setFg (.writeCheck (some bytes) n :: s.fg)).respond .inProgress)

end Sys2Proof.Machine
end

