-- ==== Sys2Proof/Machine/Pseudo.lean ====
section
/-! DEFINITION. The pseudo-operations of spec/30_encoding.md R106: each a fixed sequence of
operations, put at the head of an agent's inputs, so that steps of the other agent may fall between. -/

namespace Sys2Proof.Machine

/-- The 22 samples of a frame written as a pattern, sample 0 on the left (R91). -/
def frameSamples (w : BitVec 22) : List Bool := (List.range 22).map fun s => w.getMsbD s

/-- The 22 samples of a formatted word: sample `s` is bit `s` (R93). -/
def wordSamples (w : FmtWord) : List Bool := (List.range 22).map fun s => w.getLsbD s

/-- `DEC.SAMPLE s0, DEC.EDGE, DEC.SAMPLE s1, ..., DEC.SAMPLE sn`. -/
def samplesAndEdges : List Bool → List Instr
  | [] => []
  | [b] => [.decSample b]
  | b :: b' :: bs => .decSample b :: .decEdge :: samplesAndEdges (b' :: bs)

/-- `DEC.FRAME s0 s1 ... s21`. -/
def decFrameOps (samples : List Bool) : List Instr := .decStart :: samplesAndEdges samples

/-- `PHY.TICK s0, PHY.TICK s0, PHY.TICK s1, ..., PHY.TICK sn`: the level of an in-between tick is that
of the sample before it, as written programs have it. -/
def doubledTicks : List Bool → List Instr
  | [] => []
  | [b] => [.phyTick b]
  | b :: b' :: bs => .phyTick b :: .phyTick b :: doubledTicks (b' :: bs)

/-- `PHY.RXFRAME s0 s1 ... s21`. -/
def rxFrameOps (samples : List Bool) : List Instr := .phyEdgeirq :: doubledTicks samples

/-- The level that a tick of `PHY.TXRUN` sees (R106): a read-back tick sees the level just driven, the last bit
transmitted (10_state R31, 43_phy_tx R198); of any other tick the rule gives no level and it is free (log
entry 29). -/
def txrunLevel (s : State) : Bool :=
  if s.phy.busState = .tx ∧ s.phy.collate = true then s.phy.lastTxBit
  else Config.levelNotReadBack s.freeCtr

/-- `PHY.TXRUN n`: `44 n` ticks (R106). -/
def txrunTicks (n : Nat) : List Input := List.replicate (44 * n) .txrunTick

/-- Operations as inputs. -/
def asInputs (ops : List Instr) : List Input := ops.map fun i => .op (encode i)

/-- Offers inputs to the interrupt agent before its others. -/
def offerInputs (ins : List Input) (s : State) : State :=
  (s.setIrqIn (ins ++ s.irqIn)).respond .nothing

/-- Offers operations to the interrupt agent before its other inputs. -/
def offerIrq (ops : List Instr) (s : State) : State := offerInputs (asInputs ops) s

/-- Starts `PKT.RXBUF bytes` for a stack in the foreground. -/
def startRxbuf (stack : Nat) (bytes : List Byte) (s : State) : State :=
  (s.setFg (.rxbuf stack bytes false :: s.fg)).respond .inProgress

/-- Starts `PKT.POLL` for a stack in the foreground. -/
def startPoll (stack : Nat) (s : State) : State :=
  (s.setFg (.poll stack none :: s.fg)).respond .inProgress

/-- A pseudo-operation performed by an agent: its expansion, or a refusal when it is another agent's. -/
def expandPseudo (a : Agent) (p : Pseudo) (s : State) : Out :=
  match p, a with
  | .decFrame samples, .irq => .next (offerIrq (decFrameOps (frameSamples samples)) s)
  | .decFeed b, .irq => .next (offerIrq (decFrameOps (wordSamples (formatByte b))) s)
  | .phyRxframe samples, .irq => .next (offerIrq (rxFrameOps (frameSamples samples)) s)
  | .phyRxbyte b, .irq => .next (offerIrq (rxFrameOps (wordSamples (formatByte b))) s)
  | .phyTxrun n, .irq => .next (offerInputs (txrunTicks n) s)
  | .pktRxbuf stack bytes, .fg => .next (startRxbuf stack bytes s)
  | .pktPoll stack, .fg => .next (startPoll stack s)
  | .decFrame _, .fg | .decFeed _, .fg | .phyRxframe _, .fg | .phyRxbyte _, .fg | .phyTxrun _, .fg
  | .pktRxbuf _ _, .irq | .pktPoll _, .irq => .refused .wrongAgent

end Sys2Proof.Machine
end

