-- ==== Sys2Proof/Machine/Wire.lean ====
section
/-! DEFINITION. The three wire formats of the operation table (spec/30_encoding.md R91, R93, R94). They are
no operation words; each is given the pseudo-operation of R106 that carries it (log entry 6). -/

namespace Sys2Proof.Machine

/-- `FRAME22` (R91): the frame arrives on the input line, `PHY.RXFRAME` (R106). -/
def execFrame22 (samples : BitVec 22) (s : State) : Out :=
  .next (offerIrq (rxFrameOps (frameSamples samples)) s)

/-- `FMTWORD` (R93): the word's bits 0 to 21 are fed to the decoder in order, as `DEC.FEED` feeds the word
of its byte (R106, 43_phy_tx R191). -/
def execFmtword (b : Byte) (p : Bool) (s : State) : Out :=
  .next (offerIrq (decFrameOps (wordSamples (fmtwordBits b p))) s)

/-- `PKTHDR` (R94): the four header bytes are handed to the framer, byte 0 first, `PKT.RXBUF` (R106). -/
def execPkthdr (selfAddr : OnStack Byte) (destAddr operation len : Byte) (s : State) : Out :=
  .next (startRxbuf selfAddr.stack [selfAddr.operand, destAddr, operation, len] s)

end Sys2Proof.Machine
end

