-- ==== Sys2Proof/Machine/Dispatch.lean ====
section
/-! DEFINITION. One arm for each row of spec/opcode_table.json. -/

namespace Sys2Proof.Machine

def exec (i : Instr) (s : State) : Host.Outcome State Fault Refusal :=
  match i with
  | .fifoInit capacity elemSize => Sys2Proof.Machine.execFifoInit capacity elemSize s
  | .fifoPush arg wide => Sys2Proof.Machine.execFifoPush arg wide s
  | .fifoPop want => Sys2Proof.Machine.execFifoPop want s
  | .fifoPeek => Sys2Proof.Machine.execFifoPeek s
  | .fifoReadn maxLen => Sys2Proof.Machine.execFifoReadn maxLen s
  | .fifoClear => Sys2Proof.Machine.execFifoClear s
  | .fifoCap => Sys2Proof.Machine.execFifoCap s
  | .fifoLen => Sys2Proof.Machine.execFifoLen s
  | .fifoFree => Sys2Proof.Machine.execFifoFree s
  | .decStart => Sys2Proof.Machine.execDecStart s
  | .decEdge => Sys2Proof.Machine.execDecEdge s
  | .decSample b => Sys2Proof.Machine.execDecSample b s
  | .decWant => Sys2Proof.Machine.execDecWant s
  | .decReset => Sys2Proof.Machine.execDecReset s
  | .phyInit => Sys2Proof.Machine.execPhyInit s
  | .phyTxen e => Sys2Proof.Machine.execPhyTxen e s
  | .phyWrite data len => Sys2Proof.Machine.execPhyWrite data len s
  | .phyRead => Sys2Proof.Machine.execPhyRead s
  | .phyEdgeirq => Sys2Proof.Machine.execPhyEdgeirq s
  | .phyTick l => Sys2Proof.Machine.execPhyTick l s
  | .fmt b => Sys2Proof.Machine.execFmt b s
  | .pktInit ownAddr rxCb txCb txOpaque => Sys2Proof.Machine.execPktInit ownAddr rxCb txCb txOpaque s
  | .pktRxbyte b => Sys2Proof.Machine.execPktRxbyte b s
  | .pktSend dest opcode data len => Sys2Proof.Machine.execPktSend dest opcode data len s
  | .frame22 samples => Sys2Proof.Machine.execFrame22 samples s
  | .fmtword b p => Sys2Proof.Machine.execFmtword b p s
  | .pkthdr selfAddr destAddr operation len => Sys2Proof.Machine.execPkthdr selfAddr destAddr operation len s

end Sys2Proof.Machine
end

