-- ==== Sys2Proof/Machine/Turn.lean ====
section
/-! DEFINITION. One turn of an agent: what it takes from its inputs and what it goes on with
(spec/00_scope.md R10, R17; spec/20_memory.md R71, R72; spec/60_exceptions.md R240 to R243). -/

namespace Sys2Proof.Machine

/-- A decoder event performed on its own, not by `PHY.EDGEIRQ` or `PHY.TICK`. -/
def isDecoderEvent : Instr → Bool
  | .decStart | .decEdge | .decSample _ | .decReset | .decWant => true
  | .fifoInit _ _ | .fifoPush _ _ | .fifoPop _ | .fifoPeek | .fifoReadn _ | .fifoClear | .fifoCap
  | .fifoLen | .fifoFree | .phyInit | .phyTxen _ | .phyWrite _ _ | .phyRead | .phyEdgeirq
  | .phyTick _ | .fmt _ | .pktInit _ _ _ _ | .pktRxbyte _ | .pktSend _ _ _ _ | .frame22 _
  | .fmtword _ _ | .pkthdr _ _ _ _ => false

/-- The operation starts or ends a frame of the decoder. -/
def changesFrame (i : Instr) (s : State) : Bool :=
  match exec i s with
  | .next t => t.dec.ongoing != s.dec.ongoing
  | .fault _ | .refused _ => false

/-- A decoder event on its own that the environment does not offer. The inputs of an initialised block are
`PHY.EDGEIRQ`, `PHY.TICK` and the host's commands (00_scope R10, 92_eei_decisions D1), and 10_state R36 (iv) holds
after every step: with the parameter `loneDecoderEvents` false an event that would start or end a frame is
not delivered, with it true it is performed (log entry 15). -/
def notOffered (i : Instr) (s : State) : Bool :=
  isDecoderEvent i && s.instanceActive && !s.params.loneDecoderEvents && changesFrame i s

/-- An agent performs a coded operation: a code that names none is refused (30_encoding R101), and so is an
operation of the other agent (60_exceptions R243). An event that is not delivered is no step (00_scope R17). -/
def runCode (a : Agent) (c : Code) (s : State) : Out :=
  match decode c with
  | .error e => .refused (.invalidWord e)
  | .ok i =>
    if i.performer.allows a then
      if notOffered i s then .next (s.respond .noStep) else exec i s
    else .refused .wrongAgent

/-- A turn of the interrupt agent. With no event offered it takes no step. -/
def irqTurn (s : State) : Out :=
  match s.irqIn with
  | [] => .next s
  | .op c :: rest => runCode .irq c (s.setIrqIn rest)
  | .pseudo p :: rest => expandPseudo .irq p (s.setIrqIn rest)
  | .txrunTick :: rest => exec (.phyTick (txrunLevel s)) (s.setIrqIn rest).drawFree
  | .cbReturn _ :: _ => .refused .wrongAgent

/-- A failed byte makes an enclosing `PKT.RXBUF` return `CbFailed` (30_encoding R106). -/
def noteFailure (st : Status) : List FgFrame → List FgFrame
  | .rxbuf stack rest failed :: fs => .rxbuf stack rest (failed || st != .ok) :: fs
  | fs => fs

/-- The application callback that the foreground is in returns with `st`: `PKT.SEND` or `PKT.RXBYTE`
returns (44_packet_framer R213, R214). -/
def returnFromCallback (st : Status) (s : State) : Out :=
  match s.fg with
  | .sendCb :: fs => .next ((s.setFg fs).respond (.status (callbackStatus st)))
  | .recvCb _ :: fs => .next ((s.setFg (noteFailure st fs)).respond (.status (callbackStatus st)))
  | _ => .refused .noCallback

/-- `PHY.WRITE` returns `st`; the `PKT.SEND` whose transmit callback it is returns with it (44_packet_framer
R210, R214). -/
def returnFromWrite (st : Status) (inSend : Bool) (fs : List FgFrame) (s : State) : State :=
  (s.setFg fs).respond (.status (if inSend then callbackStatus st else st))

/-- The check step of a `PHY.WRITE` that a `PKT.SEND` has called (43_phy_tx R193). -/
def checkStep (data : Option (List Byte)) (len : Nat) (fs : List FgFrame) (s : State) : Out :=
  match writeCheck (bufferMissing data len) len s with
  | .refuse r => .refused r
  | .returns st => .next (returnFromWrite st true fs s)
  | .begins => .next ((s.setFg (.writeBegin data len true :: fs)).respond .inProgress)

/-- The wait step of `PHY.WRITE` (43_phy_tx R196): held while the bus state is Tx, then `OK`. -/
def waitStep (inSend : Bool) (fs : List FgFrame) (s : State) : Out :=
  if s.phy.busState = .tx then .next (s.respond .held) else .next (returnFromWrite .ok inSend fs s)

/-- The byte that `PKT.POLL` hands on. An element is one byte in the PHY byte FIFO of 10_state R22. When the FIFO
has been released and constructed again with another element size, 30_encoding R106 does not say which
byte it is, and it is free (log entry 28). -/
def pollByte : List Byte → Byte
  | [b] => b
  | element => Config.byteOfWideElement element

/-- `PKT.POLL` after its `PHY.READ`: it goes on with the byte read, and stops at `BufferEmpty`
(30_encoding R106; an element that is not one byte, log entry 28). -/
def pollAfterRead (stack : Nat) (fs : List FgFrame) (s : State) : State :=
  match s.resp with
  | .element bytes => s.setFg (.poll stack (some (pollByte bytes)) :: fs)
  | _ => s.setFg fs

/-- The `PHY.READ` of `PKT.POLL`. -/
def pollRead (stack : Nat) (fs : List FgFrame) (s : State) : Out :=
  match exec .phyRead s with
  | .next s' => .next (pollAfterRead stack fs s')
  | .fault e => .fault e
  | .refused r => .refused r

/-- The foreground takes its next input. -/
def fgInput (s : State) : Out :=
  match s.fgIn with
  | [] => .next s
  | .op c :: rest => runCode .fg c (s.setFgIn rest)
  | .pseudo p :: rest => expandPseudo .fg p (s.setFgIn rest)
  | .txrunTick :: _ => .refused .wrongAgent
  | .cbReturn st :: rest => returnFromCallback st (s.setFgIn rest)

/-- A turn of the foreground agent: it goes on with what it is inside of, and takes an input when it is
inside nothing or inside an application callback. While held it takes none (43_phy_tx R196). -/
def fgTurn (s : State) : Out :=
  match s.fg with
  | .writeCheck data len :: fs => checkStep data len fs s
  | .writeBegin data len inSend :: fs => writeBegin data len inSend fs s
  | .write inSend :: fs => waitStep inSend fs s
  | .poll stack none :: fs => pollRead stack fs s
  | .poll stack (some b) :: fs => exec (.pktRxbyte ⟨stack, b⟩) (s.setFg (.poll stack none :: fs))
  | .rxbuf stack (b :: bs) failed :: fs =>
    exec (.pktRxbyte ⟨stack, b⟩) (s.setFg (.rxbuf stack bs failed :: fs))
  | .rxbuf _ [] failed :: fs =>
    .next ((s.setFg fs).respond (.status (if failed then .cbFailed else .ok)))
  | .sendCb :: _ => fgInput s
  | .recvCb _ :: _ => fgInput s
  | [] => fgInput s

/-- A remembered edge is delivered as soon as the edge interrupt is armed, before any other step
(60_exceptions R237 with `EDGE_PENDING_ON_REARM`, 93_implementation_defined U4; log entry 14). -/
def edgeDeliverable (s : State) : Bool := s.phy.edgePending && s.phy.edgeIrqEnabled

/-- One step: a deliverable edge, else a turn of the agent that the schedule names. With nothing scheduled
the block does nothing (60_exceptions R250). -/
def nextStep (s : State) : Out :=
  if edgeDeliverable s then exec .phyEdgeirq s
  else
    match s.sched with
    | [] => .next s
    | .irq :: rest => irqTurn (s.setSched rest)
    | .fg :: rest => fgTurn (s.setSched rest)

/-- Puts a code where the next step fetches: first among the inputs of an agent that may perform it, that
agent scheduled next, inside nothing, and no edge waiting to be delivered. -/
def placeCode (c : Code) (s : State) : State :=
  let s := s.setPhy { s.phy with edgePending := s.phy.edgePending && !s.phy.edgeIrqEnabled }
  let agent :=
    match decode c with
    | .ok i => i.defaultAgent
    | .error _ => .fg
  match agent with
  | .irq => (s.setIrqIn (.op c :: s.irqIn)).setSched (.irq :: s.sched)
  | .fg =>
    let s := (s.setFgIn (.op c :: s.fgIn)).setSched (.fg :: s.sched)
    match s.fg with
    | .writeCheck _ _ :: _ | .writeBegin _ _ _ :: _ | .write _ :: _ | .poll _ _ :: _
    | .rxbuf _ _ _ :: _ => s.setFg []
    | .sendCb :: _ | .recvCb _ :: _ | [] => s

end Sys2Proof.Machine
end

