-- ==== Sys2Proof/Machine/Step.lean ====
section
/-! DEFINITION. The step of the machine, and where a word is placed so that the next step runs it. -/

namespace Sys2Proof.Machine

/-- One atomic step (spec/00_scope.md R8, spec/20_memory.md R71). -/
def step (s : State) : Host.Outcome State Fault Refusal := nextStep s

/-- `s` with a word of the operation table as the next operation to be run. -/
def State.withFetchWord (s : State) (nbits w : Nat) : State := placeCode (tableCode nbits w) s

end Sys2Proof.Machine
end

