-- ==== Sys2Proof/Safety.lean ====
section
/-! DEFINITION. The terms that claims use: sequences of operations, the invariants of the spec
(spec/10_state.md R23, R25, R36, R38; spec/43_phy_tx.md R202), and when the block is at rest. -/

namespace Sys2Proof.Machine

/-! ## Sequences -/

/-- Performs operations one after another, stopping at the first fault or refusal: a sequence with no step
of the other agent between. -/
def execAll : List Instr → State → Out
  | [], s => .next s
  | i :: is, s =>
    match exec i s with
    | .next t => execAll is t
    | .fault f => .fault f
    | .refused r => .refused r

/-- Of the framers, `t` has that of `stack` at `k` and every other as `s` has it (44_packet_framer R210). -/
def onlyStack (stack : Nat) (k : Framer) (s t : State) : Prop :=
  t.framer stack = k ∧ ∀ m, m ≠ stack → t.framer m = s.framer m

/-! ## Received frames (30_encoding R91) -/

/-- The byte that 22 samples carry: data bit `i` is sample `2 i + 2`. -/
def frameByte (f : Nat → Bool) : Byte :=
  bitOf 8 (f 2) ||| (bitOf 8 (f 4) <<< 1) ||| (bitOf 8 (f 6) <<< 2) ||| (bitOf 8 (f 8) <<< 3)
    ||| (bitOf 8 (f 10) <<< 4) ||| (bitOf 8 (f 12) <<< 5) ||| (bitOf 8 (f 14) <<< 6)
    ||| (bitOf 8 (f 16) <<< 7)

/-- Some stuffing sample of the frame is 0. -/
def stuffingBroken (f : Nat → Bool) : Bool :=
  (List.range Config.nLogical).any fun k => !f (2 * k + 1)

/-- The flags of 22 samples: the union of the four checks of R91. -/
def frameFlags (f : Nat → Bool) : Byte :=
  raiseFlag (stuffingBroken f) flagOffduty
    (raiseFlag (!f 20) flagStop
      (raiseFlag (f 18 != parity (frameByte f)) flagParity (raiseFlag (f 0) flagStart 0)))

/-- The 22 samples of a frame given by index. -/
def samplesOf (f : Nat → Bool) : List Bool := (List.range Config.nSamples).map f

/-! ## Invariants -/

/-- A valid FIFO's fields are in range (10_state R22, R23; 40_fifo R131). -/
def fifoInv (f : Fifo) : Prop :=
  f.valid = true →
    1 ≤ f.esz ∧ (f.cap + 1) * f.esz ≤ Config.sizeMax ∧ f.rd ≤ f.cap ∧ f.wr ≤ f.cap

/-- After an operation on a FIFO that is valid, in range and canonical, it still is, and its capacity and element size
are the same (40_fifo R140). -/
structure StillQueue (s t : State) : Prop where
  valid : t.fifo.valid = true
  inRange : fifoInv t.fifo
  storage : cellsWf t.fifo.store = true
  capacity : t.fifo.cap = s.fifo.cap
  elemSize : t.fifo.esz = s.fifo.esz

/-- The decoder's invariants (10_state R25) with the ranges of R24 and the reserved flags of 30_encoding
R101. -/
structure DecInv (d : Decoder) : Prop where
  /-- R25 (i) -/
  idleIsZero : d.ongoing = false → d = Decoder.zero
  /-- R25 (ii) -/
  offdutyIsOdd : d.expectingOffduty = d.totalCnt.getLsbD 0
  /-- R25 (iii) -/
  dataCount : d.ongoing = true →
    d.dataCnt.toNat = min ((d.totalCnt.toNat + 1) / 2 - 1) 8 % 8
  /-- R25 (iv) -/
  edgeAfterSample : d.expectingEdge = true → d.ongoing = true ∧ 1 ≤ d.totalCnt.toNat
  /-- R24 -/
  totalInRange : d.totalCnt.toNat ≤ 21
  /-- R101 -/
  reservedFlags : d.errorFlags.extractLsb' 4 4 = 0

/-- R36 (iv) of 10_state: a frame is in progress exactly in Rx. -/
def rxMatchesDecoder (s : State) : Prop :=
  s.dec.ongoing = true ↔ s.phy.busState = .rx

/-- The orchestrator's invariants R36 of 10_state, with the state before `PHY.INIT` (R42) and what holds the foreground
in Tx (43_phy_tx R196). Part (iv) is asked for where the inputs of an initialised block are those of 00_scope R10
and 92_eei_decisions D1 (log entry 15). -/
structure BusInv (s : State) : Prop where
  /-- R36 (i) -/
  legal : s.instanceActive = true →
    s.phy.busState = .idle ∨ s.phy.busState = .rx ∨ s.phy.busState = .tx
  /-- R42 -/
  before : s.instanceActive = false → s.phy.busState = .unknown
  /-- R36 (ii) -/
  timer : s.phy.timerRunning = true ↔ s.phy.busState = .rx ∨ s.phy.busState = .tx
  /-- R36 (iii) -/
  edge : s.phy.edgeIrqEnabled = true ↔ s.phy.busState = .idle
  /-- R36 (iv) -/
  frame : s.instanceActive = true → s.params.loneDecoderEvents = false → rxMatchesDecoder s
  /-- R36 (v) -/
  cursors : s.phy.busState = .tx →
    1 ≤ s.phy.txLen ∧ s.phy.txLen ≤ s.params.txbufCap ∧ s.phy.txByteCur < s.phy.txLen ∧
      s.phy.txBitCur.toNat ≤ 21
  /-- R36 (vi) -/
  phase : s.phy.busState ≠ .tx → s.phy.collate = false
  /-- R196: in Tx the foreground is in the wait of a `PHY.WRITE`. -/
  heldInTx : s.phy.busState = .tx → ∃ inSend fs, s.fg = .write inSend :: fs

/-- The framer's invariant (10_state R38). -/
def framerInv (k : Framer) : Prop :=
  k.rxState = .waitData → 1 ≤ k.pktLen.toNat ∧ k.dataCnt.toNat < k.pktLen.toNat

/-- The output line outside transmission is at its idle level (43_phy_tx R202), with what makes it so: in Tx
the last sample of every word to be sent is 1, and a driven level is the level of the bit at the
cursors. -/
structure LineInv (s : State) : Prop where
  idleHigh : s.instanceActive = true → s.phy.busState ≠ .tx → s.phy.din = true
  highBeforeFirstDrive : s.phy.busState = .tx → s.phy.txByteCur = 0 → s.phy.txBitCur = 0 →
    s.phy.collate = false → s.phy.din = true
  drivenBit : s.phy.busState = .tx → s.phy.collate = true → s.phy.din = nextTxBit s.phy
  lastSampleHigh : s.phy.busState = .tx →
    ∀ j, j < s.phy.txLen → (cellRead s.phy.txbuf j).getLsbD 21 = true

/-- What every step keeps. -/
structure BlockInv (s : State) : Prop where
  memory : Memory.wf s = true
  fifo : fifoInv s.fifo
  decoder : DecInv s.dec
  bus : BusInv s
  framer : ∀ stack, framerInv (s.framer stack)
  line : LineInv s

/-- The step from `s` performs a decoder event on its own, and not through `PHY.EDGEIRQ` or `PHY.TICK` as
00_scope R10 has it. -/
def loneDecoderEvent (s : State) : Prop :=
  edgeDeliverable s = false ∧ ∃ turns c ins i, s.sched = .irq :: turns ∧ s.irqIn = .op c :: ins ∧
    decode c = .ok i ∧ isDecoderEvent i = true

/-- The foreground is held in the wait of `PHY.WRITE`, or inside a callback; a `PHY.WRITE` that a `PKT.SEND` has
called is one (44_packet_framer R210). DESIGN CHOICE (log entry 30): a wait counts as held until its `PHY.WRITE` has
returned, also when the bus is back in Idle and only the turn that returns is still to come; before its begin step
a `PHY.WRITE` on its own does not count. -/
def FgFrame.heldOrInCallback : FgFrame → Bool
  | .write _ | .writeCheck _ _ | .writeBegin _ _ true | .sendCb | .recvCb _ => true
  | .writeBegin _ _ false | .poll _ _ | .rxbuf _ _ _ => false

/-- An input of the interrupt agent that offers a falling edge, alone or at the head of a received frame. -/
def Input.offersEdge : Input → Bool
  | .op c =>
    match decode c with
    | .ok i => i == .phyEdgeirq || i.format == .frame22
    | .error _ => false
  | .pseudo (.phyRxframe _) | .pseudo (.phyRxbyte _) => true
  | .pseudo (.decFrame _) | .pseudo (.decFeed _) | .pseudo (.phyTxrun _) | .pseudo (.pktRxbuf _ _)
  | .pseudo (.pktPoll _) | .txrunTick | .cbReturn _ => false

/-- The block is at rest, as 70_reset_and_hazards R284 has it (what counts as held there, log entry 30): Idle, the foreground neither held in the wait
of `PHY.WRITE` nor inside a callback, and no further edge offered. Another event may be offered still, and the
foreground may be part way through a `PKT.POLL` or a `PKT.RXBUF`. -/
def atRest (s : State) : Prop :=
  s.phy.busState = .idle ∧ (∀ f ∈ s.fg, f.heldOrInCallback = false) ∧
    (∀ i ∈ s.irqIn, i.offersEdge = false) ∧ edgeDeliverable s = false

end Sys2Proof.Machine
end

