-- ==== Sys2Proof/Certificates/Slice0/Obligations.lean ====
section
/-! DEFINITION. The statements for the provers, family by family. A next state is given as the state before with
exactly the named fields changed, so each result statement is its own frame. -/

open Sys2Proof Sys2Proof.Machine

/-! ## The FIFO (40_fifo) -/

/-- R131. On a FIFO that is not valid, `FIFO.INIT` fails with `BadParam` and changes nothing else exactly in the
three cases of the rule, and constructs an empty FIFO otherwise; on a valid one it is refused. -/
def Obligations.FifoInitConstructsOrFails : Prop :=
  ∀ (s : State) (c e : Size),
    (s.fifo.valid = true → exec (.fifoInit c e) s = .refused .fifoAlreadyValid) ∧
    (s.fifo.valid = false →
      (c.toNat = Config.sizeMax ∨ e.toNat = 0 ∨ (c.toNat + 1) * e.toNat > Config.sizeMax) →
      exec (.fifoInit c e) s = .next { s with resp := .status .badParam }) ∧
    (s.fifo.valid = false →
      ¬ (c.toNat = Config.sizeMax ∨ e.toNat = 0 ∨ (c.toNat + 1) * e.toNat > Config.sizeMax) →
      ∃ t, exec (.fifoInit c e) s = .next t ∧
        t = { s with fifo := t.fifo, resp := .status .ok } ∧
        t.fifo.cap = c.toNat ∧ t.fifo.esz = e.toNat ∧ t.fifo.rd = 0 ∧ t.fifo.wr = 0 ∧
        t.fifo.valid = true)

/-- R132, for both forms of the element operand. The element's bytes stand in slot `F.wr`, every other byte of
the storage reads as before, and only `F.wr` and that slot change. With `F.esz != 1` a set bit of `arg`, unused
there, makes a word that names no operation and is refused (30_encoding R101, R103). Of any other operand that is
not one element of `F.esz` bytes the rules say nothing; that the push then runs with all else as the rule has it, storing an element of which
nothing is said, is the model's choice (log entry 8). -/
def Obligations.FifoPushStoresInSlot : Prop :=
  ∀ (s : State) (arg : Byte) (wide : List Byte),
    s.fifo.valid = true → s.fifo.wr ≤ s.fifo.cap → cellsWf s.fifo.store = true →
    (∀ elem : List Byte,
      (s.fifo.esz = 1 ∧ wide = [] ∧ elem = [arg] ∨
        s.fifo.esz ≠ 1 ∧ arg = 0 ∧ wide.length = s.fifo.esz ∧ elem = wide) →
      ((s.fifo.wr + 1) % (s.fifo.cap + 1) = s.fifo.rd →
        exec (.fifoPush arg wide) s = .next { s with resp := .status .bufferFull }) ∧
      ((s.fifo.wr + 1) % (s.fifo.cap + 1) ≠ s.fifo.rd →
        ∃ t, exec (.fifoPush arg wide) s = .next t ∧
          t = { s with
            fifo := { s.fifo with
              store := t.fifo.store
              wr := (s.fifo.wr + 1) % (s.fifo.cap + 1) }
            resp := .status .ok } ∧
          (∀ j, j < s.fifo.esz → elem[j]? = some (cellRead t.fifo.store (s.fifo.wr * s.fifo.esz + j))) ∧
          (∀ a, a < s.fifo.wr * s.fifo.esz ∨ s.fifo.wr * s.fifo.esz + s.fifo.esz ≤ a →
            cellRead t.fifo.store a = cellRead s.fifo.store a))) ∧
    (s.fifo.esz ≠ 1 → arg ≠ 0 →
      exec (.fifoPush arg wide) s = .refused (.invalidWord (.unusedArgBits 0x01 arg))) ∧
    ((s.fifo.esz = 1 ∧ wide ≠ [] ∨ s.fifo.esz ≠ 1 ∧ arg = 0 ∧ wide.length ≠ s.fifo.esz) →
      ((s.fifo.wr + 1) % (s.fifo.cap + 1) = s.fifo.rd →
        exec (.fifoPush arg wide) s = .next { s with
          resp := .status .bufferFull
          freeCtr := s.freeCtr + 1 }) ∧
      ((s.fifo.wr + 1) % (s.fifo.cap + 1) ≠ s.fifo.rd →
        ∃ t, exec (.fifoPush arg wide) s = .next t ∧
          t = { s with
            fifo := { s.fifo with
              store := t.fifo.store
              wr := (s.fifo.wr + 1) % (s.fifo.cap + 1) }
            resp := .status .ok
            freeCtr := s.freeCtr + 1 } ∧
          (∀ a, a < s.fifo.wr * s.fifo.esz ∨ s.fifo.wr * s.fifo.esz + s.fifo.esz ≤ a →
            cellRead t.fifo.store a = cellRead s.fifo.store a)))

/-- R133, with the element wanted and not wanted. -/
def Obligations.FifoPopTakesOldest : Prop :=
  ∀ (s : State) (want : Bool), s.fifo.valid = true → s.fifo.rd ≤ s.fifo.cap →
    (s.fifo.rd = s.fifo.wr →
      exec (.fifoPop want) s = .next { s with resp := .status .bufferEmpty }) ∧
    (s.fifo.rd ≠ s.fifo.wr →
      exec (.fifoPop want) s = .next { s with
        fifo := { s.fifo with rd := (s.fifo.rd + 1) % (s.fifo.cap + 1) }
        resp :=
          if want then .element ((List.range s.fifo.esz).map fun j =>
            cellRead s.fifo.store (s.fifo.rd * s.fifo.esz + j))
          else .status .ok })

/-- R134. -/
def Obligations.FifoPeekLeavesState : Prop :=
  ∀ s : State, s.fifo.valid = true → s.fifo.rd ≤ s.fifo.cap →
    (s.fifo.rd = s.fifo.wr → exec .fifoPeek s = .next { s with resp := .status .bufferEmpty }) ∧
    (s.fifo.rd ≠ s.fifo.wr →
      exec .fifoPeek s = .next { s with
        resp := .element ((List.range s.fifo.esz).map fun j =>
          cellRead s.fifo.store (s.fifo.rd * s.fifo.esz + j)) })

/-- R135. The length is the one number of at most `F.cap` that leads from `F.rd` to `F.wr` modulo `F.cap + 1`. -/
def Obligations.FifoReadnReturnsOldest : Prop :=
  ∀ (s : State) (m : Size) (len : Nat), s.fifo.valid = true → s.fifo.rd ≤ s.fifo.cap →
    len ≤ s.fifo.cap → (s.fifo.rd + len) % (s.fifo.cap + 1) = s.fifo.wr →
    exec (.fifoReadn m) s = .next { s with
      resp := .elements (min m.toNat len) ((List.range (min m.toNat len)).map fun j =>
        fifoSlot s.fifo ((s.fifo.rd + j) % (s.fifo.cap + 1))) }

/-- 20_memory R78: the oldest `n` elements are the slots `F.rd .. min(F.rd + n, F.cap + 1) - 1` and, when that
does not reach `n`, the slots from 0 up. -/
def Obligations.FifoReadnIsTwoCopies : Prop :=
  ∀ (f : Fifo) (n : Nat), f.rd ≤ f.cap → n ≤ fifoLength f →
    fifoOldest f n =
      (List.range (min n (f.cap + 1 - f.rd))).map (fun j => fifoSlot f (f.rd + j)) ++
        (List.range (n - min n (f.cap + 1 - f.rd))).map (fun j => fifoSlot f j)

/-- R136, for both values of `CLEAR_EMPTY_STATUS`. -/
def Obligations.FifoClearEmpties : Prop :=
  ∀ s : State, s.fifo.valid = true →
    (s.fifo.rd ≠ s.fifo.wr →
      exec .fifoClear s = .next { s with
        fifo := { s.fifo with rd := s.fifo.wr }
        resp := .status .ok }) ∧
    (s.fifo.rd = s.fifo.wr →
      exec .fifoClear s = .next { s with resp := .status s.params.clearEmpty.status })

/-- R137 and R138. -/
def Obligations.FifoCapAndLenAnswer : Prop :=
  ∀ (s : State) (len : Nat), s.fifo.valid = true → s.fifo.rd ≤ s.fifo.cap →
    len ≤ s.fifo.cap → (s.fifo.rd + len) % (s.fifo.cap + 1) = s.fifo.wr →
    exec .fifoCap s = .next { s with resp := .number s.fifo.cap } ∧
    exec .fifoLen s = .next { s with resp := .number len }

/-- R139: `F.valid` is cleared; the other fields of `F` are unspecified and nothing is said of them. The counter
of free values is the model's own. -/
def Obligations.FifoFreeInvalidates : Prop :=
  ∀ s : State, s.fifo.valid = true →
    ∃ t, exec .fifoFree s = .next t ∧ t.fifo.valid = false ∧
      t = { s with fifo := t.fifo, resp := .status .ok, freeCtr := s.freeCtr + 1 }

/-- The law R140 one operation at a time: `FIFO.PUSH`, `FIFO.POP` and `FIFO.CLEAR` are the operations of a queue of at
most `F.cap` elements, and each leaves a valid buffer in range, of the same capacity and element size, with its
storage canonical, so that the next operation of a sequence finds it so. -/
def Obligations.FifoRefinesBoundedQueue : Prop :=
  ∀ s : State, fifoInv s.fifo → s.fifo.valid = true → cellsWf s.fifo.store = true →
    (fifoContents s.fifo).length ≤ s.fifo.cap ∧
    (∀ (arg : Byte) (wide elem : List Byte),
      (s.fifo.esz = 1 ∧ wide = [] ∧ elem = [arg] ∨
        s.fifo.esz ≠ 1 ∧ arg = 0 ∧ wide.length = s.fifo.esz ∧ elem = wide) →
      ∃ t, exec (.fifoPush arg wide) s = .next t ∧ StillQueue s t ∧
        ((fifoContents s.fifo).length = s.fifo.cap → t = { s with resp := .status .bufferFull }) ∧
        ((fifoContents s.fifo).length < s.fifo.cap →
          t.resp = .status .ok ∧ fifoContents t.fifo = fifoContents s.fifo ++ [elem])) ∧
    (∀ want : Bool, ∃ t, exec (.fifoPop want) s = .next t ∧ StillQueue s t ∧
      (fifoContents s.fifo = [] → t = { s with resp := .status .bufferEmpty }) ∧
      (∀ v vs, fifoContents s.fifo = v :: vs →
        fifoContents t.fifo = vs ∧ t.resp = if want then .element v else .status .ok)) ∧
    (∃ t, exec .fifoClear s = .next t ∧ StillQueue s t ∧ fifoContents t.fifo = [])

/-! ## The decoder (41_rx_decoder) -/

/-- R151. -/
def Obligations.DecStartBeginsOrRejects : Prop :=
  ∀ s : State,
    (s.dec.ongoing = true → exec .decStart s = .next { s with resp := .decoder ⟨false, false, 0, 0⟩ }) ∧
    (s.dec.ongoing = false →
      exec .decStart s = .next { s with
        dec := ⟨true, false, false, 0, 0, 0, 0⟩
        resp := .decoder ⟨true, false, 0, 0⟩ })

/-- R152. -/
def Obligations.DecEdgeReleasesOrRejects : Prop :=
  ∀ s : State,
    (s.dec.ongoing = false ∨ s.dec.expectingEdge = false →
      exec .decEdge s = .next { s with resp := .decoder ⟨false, false, 0, 0⟩ }) ∧
    (s.dec.ongoing = true → s.dec.expectingEdge = true →
      exec .decEdge s = .next { s with
        dec := { s.dec with expectingEdge := false }
        resp := .decoder ⟨true, false, 0, 0⟩ })

/-- R153: out of sequence a sample is rejected; else, before the 22nd, it is checked or accumulated by its
position and the decoder advances. The premise `s ≤ 21` is the range of 10_state R24. -/
def Obligations.DecSampleByPosition : Prop :=
  ∀ (s : State) (b : Bool),
    (s.dec.ongoing = false ∨ s.dec.expectingEdge = true →
      exec (.decSample b) s = .next { s with resp := .decoder ⟨false, false, 0, 0⟩ }) ∧
    (s.dec.ongoing = true → s.dec.expectingEdge = false → s.dec.totalCnt.toNat < 21 →
      ∃ t, exec (.decSample b) s = .next t ∧
        t = { s with dec := t.dec, resp := .decoder ⟨true, false, 0, 0⟩ } ∧
        t.dec.ongoing = true ∧ t.dec.expectingEdge = true ∧
        t.dec.totalCnt.toNat = s.dec.totalCnt.toNat + 1 ∧
        t.dec.expectingOffduty = decide ((s.dec.totalCnt.toNat + 1) % 2 = 1) ∧
        (s.dec.expectingOffduty = true →
          t.dec.data = s.dec.data ∧ t.dec.dataCnt = s.dec.dataCnt ∧
          t.dec.errorFlags = if b then s.dec.errorFlags else s.dec.errorFlags ||| 0x08) ∧
        (s.dec.expectingOffduty = false → s.dec.totalCnt.toNat / 2 = 0 →
          t.dec.data = s.dec.data ∧ t.dec.dataCnt = 0 ∧
          t.dec.errorFlags = if b then s.dec.errorFlags ||| 0x01 else s.dec.errorFlags) ∧
        (s.dec.expectingOffduty = false → 1 ≤ s.dec.totalCnt.toNat / 2 →
          s.dec.totalCnt.toNat / 2 ≤ 8 →
          (∀ i, i < 8 → t.dec.data.getLsbD i =
            (s.dec.data.getLsbD i || (b && decide (i = s.dec.dataCnt.toNat)))) ∧
          t.dec.dataCnt.toNat = (s.dec.dataCnt.toNat + 1) % 8 ∧
          t.dec.errorFlags = s.dec.errorFlags) ∧
        (s.dec.expectingOffduty = false → s.dec.totalCnt.toNat / 2 = 9 →
          t.dec.data = s.dec.data ∧ t.dec.dataCnt = s.dec.dataCnt ∧
          t.dec.errorFlags =
            if b = parity s.dec.data then s.dec.errorFlags else s.dec.errorFlags ||| 0x02) ∧
        (s.dec.expectingOffduty = false → s.dec.totalCnt.toNat / 2 = 10 →
          t.dec.data = s.dec.data ∧ t.dec.dataCnt = s.dec.dataCnt ∧
          t.dec.errorFlags = if b then s.dec.errorFlags else s.dec.errorFlags ||| 0x04))

/-- R154: the 22nd sample reports the frame and resets the decoder. That it is a stuffing sample is 10_state
R25 (ii). -/
def Obligations.DecLastSampleReportsFrame : Prop :=
  ∀ (s : State) (b : Bool), s.dec.ongoing = true → s.dec.expectingEdge = false →
    s.dec.totalCnt = 21 → s.dec.expectingOffduty = true →
    exec (.decSample b) s = .next { s with
      dec := ⟨false, false, false, 0, 0, 0, 0⟩
      resp := .decoder
        ⟨true, true, s.dec.data, if b then s.dec.errorFlags else s.dec.errorFlags ||| 0x08⟩ }

/-- R155: `DEC.WANT` answers whether a sample would be accepted, and changes nothing. -/
def Obligations.DecWantTellsAcceptance : Prop :=
  ∀ (s : State) (b : Bool),
    exec .decWant s = .next { s with resp := .bit (s.dec.ongoing && !s.dec.expectingEdge) } ∧
    (∃ t r, exec (.decSample b) s = .next t ∧ t.resp = .decoder r ∧
      r.accepted = (s.dec.ongoing && !s.dec.expectingEdge))

/-- R156. -/
def Obligations.DecResetZeroes : Prop :=
  ∀ s : State,
    exec .decReset s = .next { s with dec := ⟨false, false, false, 0, 0, 0, 0⟩, resp := .nothing }

/-- 10_state R25: the decoder's invariants hold after every operation that answers a next state. -/
def Obligations.DecoderInvariantsKept : Prop :=
  ∀ (i : Instr) (s t : State), DecInv s.dec → exec i s = .next t → DecInv t.dec

/-- R153, R154, R157 and R158 together: the decoder fed any 22 samples in the order of R157 takes all of them,
reports the byte of the eight data samples with the union of the four checks, and is reset. -/
def Obligations.AnyFrameDecodesToByteAndFlags : Prop :=
  ∀ (s : State) (f : Nat → Bool), s.dec.ongoing = false →
    execAll (decFrameOps (samplesOf f)) s = .next { s with
      dec := Decoder.zero
      resp := .decoder ⟨true, true, frameByte f, frameFlags f⟩ }

/-- R159: the frame of a byte decodes to the byte with no flag, and flipping the start, parity and stop samples
and any of the eleven stuffing samples sets exactly the union of their flags and leaves the byte. -/
def Obligations.FlippedSamplesSetTheirFlags : Prop :=
  ∀ (s : State) (b : Byte) (flip : Nat → Bool), s.dec.ongoing = false →
    (∀ i, i < 8 → flip (2 * i + 2) = false) →
    execAll
        (decFrameOps (samplesOf fun p => (formatByte b).getLsbD p ^^ flip p)) s =
      .next { s with
        dec := Decoder.zero
        resp := .decoder ⟨true, true, b,
          (if flip 0 then 0x01 else 0) ||| (if flip 18 then 0x02 else 0) |||
            (if flip 20 then 0x04 else 0) |||
            (if (List.range 11).any fun k => flip (2 * k + 1) then 0x08 else 0)⟩ }

/-! ## The orchestrator: initialisation and receive path (42_phy_rx) -/

/-- R171, for a FIFO that is not valid yet (the refusal of a valid one is in
`OperationsBeforeInitRefused`). That the idle level is noted among the levels driven is the model's (log
entry 17), and the two timing constants are free values (log entry 11). -/
def Obligations.PhyInitInitialisesOnce : Prop :=
  ∀ s : State,
    (s.instanceActive = true → exec .phyInit s = .next { s with resp := .status .badParam }) ∧
    (s.instanceActive = false → s.fifo.valid = false → Config.sizeMax ≤ s.params.fifoCap →
      exec .phyInit s = .next { s with resp := .status .badParam }) ∧
    (s.instanceActive = false → s.fifo.valid = false → s.params.fifoCap < Config.sizeMax →
      ∃ t, exec .phyInit s = .next t ∧
        t.fifo.cap = s.params.fifoCap ∧ t.fifo.esz = 1 ∧ t.fifo.rd = 0 ∧ t.fifo.wr = 0 ∧
        t.fifo.valid = true ∧
        t = { s with
          fifo := t.fifo
          dec := ⟨false, false, false, 0, 0, 0, 0⟩
          instanceActive := true
          driven := s.driven ++ [true]
          resp := .status .ok
          phy := { s.phy with
            din := true
            txEnabled := false
            rstLine := s.params.rstActiveLevel
            tickPeriod := Config.tickPeriodOf s.params.baud
            centerOffset := Config.centerOffsetOf s.params.baud
            logStart := 0
            logParity := 0
            logStop := 0
            logOffduty := 0
            logOverflow := 0
            logReentrant := 0
            txLen := 0
            txByteCur := 0
            txBitCur := 0
            collate := false
            lastTxBit := true
            timerRunning := false
            busState := .idle
            edgeIrqEnabled := true } })

/-- R172. -/
def Obligations.PhyTxenDrivesResetLine : Prop :=
  ∀ (s : State) (e : Bool), s.instanceActive = true →
    exec (.phyTxen e) s = .next { s with
      phy := { s.phy with
        txEnabled := e
        rstLine := if e then !s.params.rstActiveLevel else s.params.rstActiveLevel }
      resp := .status .ok }

/-- R173 and R178: an edge while armed starts a frame when the decoder accepts it, and resynchronises when the
decoder rejects it; while it is not armed it is no step. Of the external detector's memory, the field
`edgePending`, nothing is said (`RememberedEdgeStartsFrameAtOnce`). -/
def Obligations.EdgeStartsFrameOrResynchronises : Prop :=
  ∀ s : State, s.instanceActive = true →
    (s.phy.edgeIrqEnabled = true → s.dec.ongoing = false →
      ∃ t, exec .phyEdgeirq s = .next t ∧ t = { s with
        dec := ⟨true, false, false, 0, 0, 0, 0⟩
        phy := { s.phy with
          edgeIrqEnabled := false
          timerRunning := true
          timerLoad := s.phy.centerOffset
          busState := .rx
          edgePending := t.phy.edgePending }
        resp := .status .ok }) ∧
    (s.phy.edgeIrqEnabled = true → s.dec.ongoing = true →
      ∃ t, exec .phyEdgeirq s = .next t ∧ t = { s with
        dec := ⟨false, false, false, 0, 0, 0, 0⟩
        phy := { s.phy with
          logReentrant := s.phy.logReentrant + 1
          timerRunning := false
          busState := .idle
          edgeIrqEnabled := true
          edgePending := t.phy.edgePending }
        resp := .status .ok }) ∧
    (s.phy.edgeIrqEnabled = false →
      ∃ t, exec .phyEdgeirq s = .next t ∧ t = { s with
        phy := { s.phy with edgePending := t.phy.edgePending }
        resp := .noStep })

/-- 60_exceptions R240: a masked event changes nothing and counts nothing. The response, the model's own field (log
entry 17), says that there was no step; that a masked edge is lost is the default of
`EDGE_PENDING_ON_REARM`, and the other value is in `RememberedEdgeStartsFrameAtOnce`. -/
def Obligations.MaskedEventsAreNoStep : Prop :=
  ∀ (s : State) (l : Bool), s.instanceActive = true →
    (s.phy.timerRunning = false → exec (.phyTick l) s = .next { s with resp := .noStep }) ∧
    (s.phy.edgeIrqEnabled = false → s.params.edgePendingOnRearm = false →
      exec .phyEdgeirq s = .next { s with resp := .noStep })

/-- R175: a tick in Rx before the 22nd sample does to the machine what `DEC.SAMPLE l` does when the decoder wants
a sample, and what `DEC.EDGE` does otherwise, whatever the level; only the response differs. -/
def Obligations.RxTickFeedsDecoder : Prop :=
  ∀ (s : State) (l : Bool), s.instanceActive = true → s.phy.timerRunning = true →
    s.phy.busState = .rx →
    (s.dec.ongoing = true → s.dec.expectingEdge = false → s.dec.totalCnt ≠ 21 →
      ∃ t, exec (.decSample l) s = .next t ∧
        exec (.phyTick l) s = .next { t with resp := .status .ok }) ∧
    (s.dec.ongoing = false ∨ s.dec.expectingEdge = true →
      ∃ t, exec .decEdge s = .next t ∧
        exec (.phyTick l) s = .next { t with resp := .status .ok })

/-- R176: the tick that feeds the 22nd sample. A clean byte is appended to the FIFO or counted as an overflow,
an erroneous one is counted once for each flag and never pushed; then Idle with the edge armed. For a FIFO that has
been constructed again with wider elements, of which the rule says nothing, the tick does the same with some element
of that size (log entry 8). -/
def Obligations.FrameCompletionPushesOrCounts : Prop :=
  ∀ (s : State) (l : Bool) (flags : Byte), s.instanceActive = true →
    s.phy.timerRunning = true → s.phy.busState = .rx → s.dec.ongoing = true →
    s.dec.expectingEdge = false → s.dec.totalCnt = 21 → s.dec.expectingOffduty = true →
    flags = (if l then s.dec.errorFlags else s.dec.errorFlags ||| 0x08) →
    fifoInv s.fifo → s.fifo.valid = true → cellsWf s.fifo.store = true →
    ∃ t, exec (.phyTick l) s = .next t ∧
      t = { s with
        dec := ⟨false, false, false, 0, 0, 0, 0⟩
        fifo := t.fifo
        resp := .status .ok
        freeCtr := if flags = 0 ∧ s.fifo.esz ≠ 1 then s.freeCtr + 1 else s.freeCtr
        phy := { s.phy with
          timerRunning := false
          busState := .idle
          edgeIrqEnabled := true
          logOverflow := t.phy.logOverflow
          logStart := t.phy.logStart
          logParity := t.phy.logParity
          logStop := t.phy.logStop
          logOffduty := t.phy.logOffduty } } ∧
      (flags = 0 →
        t.phy.logStart = s.phy.logStart ∧ t.phy.logParity = s.phy.logParity ∧
        t.phy.logStop = s.phy.logStop ∧ t.phy.logOffduty = s.phy.logOffduty) ∧
      (flags = 0 → (fifoContents s.fifo).length < s.fifo.cap →
        (∃ elem : List Byte, elem.length = s.fifo.esz ∧ (s.fifo.esz = 1 → elem = [s.dec.data]) ∧
          fifoContents t.fifo = fifoContents s.fifo ++ [elem]) ∧
        t.fifo = { s.fifo with
          store := t.fifo.store
          wr := (s.fifo.wr + 1) % (s.fifo.cap + 1) } ∧
        (s.fifo.esz = 1 → cellRead t.fifo.store s.fifo.wr = s.dec.data) ∧
        (∀ a, a < s.fifo.wr * s.fifo.esz ∨ s.fifo.wr * s.fifo.esz + s.fifo.esz ≤ a →
          cellRead t.fifo.store a = cellRead s.fifo.store a) ∧
        t.phy.logOverflow = s.phy.logOverflow) ∧
      (flags = 0 → (fifoContents s.fifo).length = s.fifo.cap →
        t.fifo = s.fifo ∧ t.phy.logOverflow = s.phy.logOverflow + 1) ∧
      (flags ≠ 0 →
        t.fifo = s.fifo ∧ t.phy.logOverflow = s.phy.logOverflow ∧
        t.phy.logStart = (if flags.getLsbD 0 then s.phy.logStart + 1 else s.phy.logStart) ∧
        t.phy.logParity = (if flags.getLsbD 1 then s.phy.logParity + 1 else s.phy.logParity) ∧
        t.phy.logStop = (if flags.getLsbD 2 then s.phy.logStop + 1 else s.phy.logStop) ∧
        t.phy.logOffduty = (if flags.getLsbD 3 then s.phy.logOffduty + 1 else s.phy.logOffduty))

/-- R177, on the byte FIFO. -/
def Obligations.PhyReadPopsOneByte : Prop :=
  ∀ s : State, s.instanceActive = true → s.fifo.valid = true → s.fifo.esz = 1 →
    s.fifo.rd ≤ s.fifo.cap →
    (s.fifo.rd = s.fifo.wr → exec .phyRead s = .next { s with resp := .status .bufferEmpty }) ∧
    (s.fifo.rd ≠ s.fifo.wr →
      exec .phyRead s = .next { s with
        fifo := { s.fifo with rd := (s.fifo.rd + 1) % (s.fifo.cap + 1) }
        resp := .element [cellRead s.fifo.store s.fifo.rd] })

/-- The law R181 of the receive path, whatever the levels of the ticks between the samples: the frame of a byte,
received in Idle, is one edge and 43 ticks and ends in Idle with the byte appended, or with the overflow
counted when the FIFO is full. -/
def Obligations.ReceivedFrameReachesFifo : Prop :=
  ∀ (s : State) (b : Byte) (between : Nat → Bool), s.instanceActive = true →
    s.phy.busState = .idle → s.phy.edgeIrqEnabled = true → s.dec = Decoder.zero →
    fifoInv s.fifo → s.fifo.valid = true → s.fifo.esz = 1 → cellsWf s.fifo.store = true →
    ∃ t, execAll
        (.phyEdgeirq :: (List.range 43).map fun n =>
          .phyTick (if n % 2 = 0 then (formatByte b).getLsbD (n / 2) else between n)) s = .next t ∧
      t = { s with
        fifo := t.fifo
        resp := .status .ok
        phy := { s.phy with
          timerRunning := false
          timerLoad := s.phy.centerOffset
          edgePending := t.phy.edgePending
          logOverflow := t.phy.logOverflow } } ∧
      ((fifoContents s.fifo).length < s.fifo.cap →
        fifoContents t.fifo = fifoContents s.fifo ++ [[b]] ∧
        t.fifo = { s.fifo with
          store := t.fifo.store
          wr := (s.fifo.wr + 1) % (s.fifo.cap + 1) } ∧
        (∀ a, cellRead t.fifo.store a = if a = s.fifo.wr then b else cellRead s.fifo.store a) ∧
        t.phy.logOverflow = s.phy.logOverflow) ∧
      ((fifoContents s.fifo).length = s.fifo.cap →
        t.fifo = s.fifo ∧ t.phy.logOverflow = s.phy.logOverflow + 1)

/-! ## The orchestrator: transmission (43_phy_tx) -/

/-- R190: the bits of the formatted word, one by one; no state but the response is written. -/
def Obligations.FmtGivesFrameWord : Prop :=
  ∀ (s : State) (b : Byte), ∃ w : FmtWord,
    exec (.fmt b) s = .next { s with resp := .word w } ∧
    w.getLsbD 0 = false ∧
    (∀ i, i < 8 → w.getLsbD (2 * i + 2) = b.getLsbD i) ∧
    w.getLsbD 18 = (b.getLsbD 0 ^^ b.getLsbD 1 ^^ b.getLsbD 2 ^^ b.getLsbD 3 ^^ b.getLsbD 4 ^^
      b.getLsbD 5 ^^ b.getLsbD 6 ^^ b.getLsbD 7) ∧
    w.getLsbD 20 = true ∧
    (∀ k, k < 11 → w.getLsbD (2 * k + 1) = true) ∧
    (∀ i, 22 ≤ i → i < 32 → w.getLsbD i = false)

/-- R191: the round trip from the formatter through the decoder, the formatter is injective, and its 22 bits are the
values sent of 30_encoding R91. -/
def Obligations.FormattedByteDecodesBack : Prop :=
  (∀ (s : State) (b : Byte), s.dec.ongoing = false →
    execAll (decFrameOps (wordSamples (formatByte b))) s = .next { s with
      dec := Decoder.zero
      resp := .decoder ⟨true, true, b, 0⟩ }) ∧
  (∀ b c : Byte, formatByte b = formatByte c → b = c) ∧
  (∀ (b : Byte) (k : Nat), k < 11 →
    (formatByte b).getLsbD (2 * k + 1) = true ∧
    (formatByte b).getLsbD (2 * k) =
      if k = 0 then false else if k ≤ 8 then b.getLsbD (k - 1) else if k = 9 then parity b else true)

/-- R193: the check step of `PHY.WRITE`, in its order; none of its returns changes anything, and one that passes
leaves the foreground before the begin step with nothing done. That the foreground is there, and answers that
the operation is in progress, is how the model has the three steps of R192 (log entry 20). -/
def Obligations.WriteChecksOperandsFirst : Prop :=
  ∀ (s : State) (data : Option (List Byte)) (len : Nat), s.instanceActive = true →
    (0 < len → data = none → exec (.phyWrite data len) s = .next { s with resp := .status .badParam }) ∧
    (s.params.txbufCap < len →
      exec (.phyWrite data len) s = .next { s with resp := .status .badParam }) ∧
    (len = 0 → exec (.phyWrite data len) s = .next { s with resp := .status .ok }) ∧
    (0 < len → len ≤ s.params.txbufCap → data ≠ none → s.phy.busState ≠ .idle →
      exec (.phyWrite data len) s = .refused .writeNotIdle) ∧
    (0 < len → len ≤ s.params.txbufCap → data ≠ none → s.phy.busState = .idle →
      exec (.phyWrite data len) s = .next { s with
        fg := .writeBegin data len false :: s.fg
        resp := .inProgress })

/-- R194: the begin step, the foreground's turn after the check, of a `PHY.WRITE` of a program and of one that is the
transmit callback of a `PKT.SEND`. Word `j` is the formatted byte `data[j]`; every other word of the buffer is
as before. An interrupt step may have fallen since the check: outside Idle the begin step has no meaning
(93_implementation_defined U1, U2). That it is a turn of the foreground, with the answer in progress, is the
model's choice (log entries 4 and 20). Of a byte beyond a string shorter than `len` nothing is said but that
some byte is formatted (log entry 10), and of the count the timer is started with nothing (log entry 11). -/
def Obligations.WriteBeginsTransmission : Prop :=
  ∀ (s : State) (bytes : List Byte) (len : Nat) (inSend : Bool) (fs : List FgFrame) (rest : List Agent),
    edgeDeliverable s = false → s.sched = .fg :: rest →
    s.fg = .writeBegin (some bytes) len inSend :: fs → 1 ≤ len → len ≤ s.params.txbufCap →
    (s.phy.busState ≠ .idle → step s = .refused .writeNotIdle) ∧
    (s.phy.busState = .idle → cellsWf s.phy.txbuf = true →
      ∃ t, step s = .next t ∧
        (∀ j, j < len → ∃ b, cellRead t.phy.txbuf j = formatByte b ∧
          (j < bytes.length → bytes[j]? = some b)) ∧
        (∀ j, len ≤ j → cellRead t.phy.txbuf j = cellRead s.phy.txbuf j) ∧
        t = { s with
          sched := rest
          fg := .write inSend :: fs
          resp := .inProgress
          freeCtr := s.freeCtr + 1
          phy := { s.phy with
            txbuf := t.phy.txbuf
            timerLoad := t.phy.timerLoad
            txLen := len
            txByteCur := 0
            txBitCur := 0
            collate := false
            edgeIrqEnabled := false
            busState := .tx
            timerRunning := true } })

/-- R196: the wait step, for a `PHY.WRITE` of a program and for one that is the transmit callback of a
`PKT.SEND`, which returns with it. The foreground is held while the bus state is Tx, takes no input, and then
returns `OK`. -/
def Obligations.WaitHoldsForegroundInTx : Prop :=
  ∀ (s : State) (inSend : Bool) (fs : List FgFrame) (rest : List Agent), edgeDeliverable s = false →
    s.sched = .fg :: rest → s.fg = .write inSend :: fs →
    (s.phy.busState = .tx → step s = .next { s with sched := rest, resp := .held }) ∧
    (s.phy.busState ≠ .tx →
      step s = .next { s with sched := rest, fg := fs, resp := .status .ok })

/-- R198, the drive phase of R197. The list of levels driven is the observable of 00_scope R11 (log entry 17). -/
def Obligations.TxDriveTickDrivesBit : Prop :=
  ∀ (s : State) (l b : Bool), s.instanceActive = true → s.phy.timerRunning = true →
    s.phy.busState = .tx → s.phy.collate = false → s.phy.txByteCur < s.params.txbufCap →
    b = (cellRead s.phy.txbuf s.phy.txByteCur).getLsbD s.phy.txBitCur.toNat →
    exec (.phyTick l) s = .next { s with
      phy := { s.phy with din := b, lastTxBit := b, collate := true }
      driven := s.driven ++ [b]
      resp := .status .ok }

/-- R197 and R199: the read-back phase, for every level read back. -/
def Obligations.TxReadBackTickAdvances : Prop :=
  ∀ (s : State) (l : Bool), s.instanceActive = true → s.phy.timerRunning = true →
    s.phy.busState = .tx → s.phy.collate = true →
    (s.phy.txBitCur.toNat < 21 →
      exec (.phyTick l) s = .next { s with
        phy := { s.phy with collate := false, txBitCur := s.phy.txBitCur + 1 }
        resp := .status .ok }) ∧
    (s.phy.txBitCur.toNat = 21 → s.phy.txByteCur + 1 ≠ s.phy.txLen →
      exec (.phyTick l) s = .next { s with
        phy := { s.phy with collate := false, txBitCur := 0, txByteCur := s.phy.txByteCur + 1 }
        resp := .status .ok }) ∧
    (s.phy.txBitCur.toNat = 21 → s.phy.txByteCur + 1 = s.phy.txLen →
      exec (.phyTick l) s = .next { s with
        phy := { s.phy with
          collate := false
          txBitCur := 0
          txByteCur := s.phy.txByteCur + 1
          timerRunning := false
          busState := .idle
          edgeIrqEnabled := true }
        resp := .status .ok })

/-- R201: nothing that a transmission does depends on the levels read back, over any number of ticks. -/
def Obligations.ReadBackLevelsHaveNoEffect : Prop :=
  ∀ (s : State) (ls ms : List Bool), s.phy.busState = .tx → ls.length = ms.length →
    execAll (ls.map .phyTick) s = execAll (ms.map .phyTick) s

/-- The law R200 of the shifter, from the check of `PHY.WRITE` on. After `n` of the `44 * len` ticks the levels driven
are the first `(n + 1) / 2` samples of the frames of the bytes, the line carries the latest of them, the block
is in Tx while ticks remain, and after the last tick it is in Idle with the line at 1, and the foreground's next
turn returns `OK`; whatever the levels read back. That the check is `exec` and the begin and the wait are turns
of the foreground is the model's choice (log entry 20), and so is the list of levels driven (log entry 17). -/
def Obligations.WriteShiftsOutEveryFrame : Prop :=
  ∀ (s : State) (bytes : List Byte), s.instanceActive = true → s.phy.busState = .idle →
    bytes ≠ [] → bytes.length ≤ s.params.txbufCap → cellsWf s.phy.txbuf = true →
    ∃ v u, exec (.phyWrite (some bytes) bytes.length) s = .next v ∧ fgTurn v = .next u ∧
      ∀ ls : List Bool, ls.length ≤ 44 * bytes.length →
        ∃ t, execAll (ls.map .phyTick) u = .next t ∧
          t.driven = s.driven ++
            (bytes.flatMap fun b => wordSamples (formatByte b)).take ((ls.length + 1) / 2) ∧
          (1 ≤ ls.length →
            (bytes.flatMap fun b => wordSamples (formatByte b))[(ls.length - 1) / 2]? =
              some t.phy.din) ∧
          (ls.length < 44 * bytes.length → t.phy.busState = .tx ∧
            (t.phy.collate = decide (ls.length % 2 = 1))) ∧
          (ls.length = 44 * bytes.length →
            t.phy.busState = .idle ∧ t.phy.timerRunning = false ∧ t.phy.edgeIrqEnabled = true ∧
            t.phy.collate = false ∧ t.phy.din = true ∧ t.dec = s.dec ∧
            fgTurn t = .next { t with fg := s.fg, resp := .status .ok })

/-- 70_reset_and_hazards R284: a state in Rx or Tx is not at rest, and ticks lead back to Idle, at most 43 in Rx and at
most `44 * P.tx_len` in Tx, from every state that the invariants allow, whatever their levels. In Rx a frame has to be in
progress, as R36 (iv) of 10_state has it; it is one of the invariants, but where the parameter
`loneDecoderEvents` is true (log entry 15). -/
def Obligations.TicksLeadBackToIdle : Prop :=
  ∀ s : State, BlockInv s → s.instanceActive = true → s.fifo.valid = true →
    (s.phy.busState = .rx → ¬ atRest s ∧ (rxMatchesDecoder s → ∀ ls : List Bool, ls.length = 43 →
      ∃ t, execAll (ls.map .phyTick) s = .next t ∧ t.phy.busState = .idle)) ∧
    (s.phy.busState = .tx → ¬ atRest s ∧ ∀ ls : List Bool, ls.length = 44 * s.phy.txLen →
      ∃ t, execAll (ls.map .phyTick) s = .next t ∧ t.phy.busState = .idle)

/-! ## The framer (44_packet_framer) -/

/-- R210: the stack of the handle given is constructed, whether or not it was before, and every other stack keeps its
own `K`. The handle is how the model names a stack (log entry 19). -/
def Obligations.PktInitConstructs : Prop :=
  ∀ (s : State) (n : Nat) (a : Byte) (rx : Option Nat) (tx : TxCallback) (op : Option Nat),
    ∃ t, exec (.pktInit ⟨n, a⟩ rx tx op) s = .next t ∧
      t = { s with framers := t.framers, resp := .status .ok } ∧
      onlyStack n
        { s.framer n with
          constructed := true
          ownAddr := a
          rxCb := rx
          txCb := tx
          txOpaque := op
          rxState := .waitSelf
          dataCnt := 0
          unhandledCnt := 0 } s t

/-- R212: the transitions that complete no packet, on the stack of the handle given; no other stack changes (R210). -/
def Obligations.RxbyteAdvancesReceiveMachine : Prop :=
  ∀ (s : State) (n : Nat) (b : Byte), (s.framer n).constructed = true → FgFrame.recvCb n ∉ s.fg →
    ((s.framer n).rxState = .waitSelf →
      ∃ t, exec (.pktRxbyte ⟨n, b⟩) s = .next t ∧
        t = { s with framers := t.framers, resp := .status .ok } ∧
        onlyStack n { s.framer n with pktSelf := b, rxState := .waitDest } s t) ∧
    ((s.framer n).rxState = .waitDest →
      ∃ t, exec (.pktRxbyte ⟨n, b⟩) s = .next t ∧
        t = { s with framers := t.framers, resp := .status .ok } ∧
        onlyStack n { s.framer n with pktDest := b, rxState := .waitOp } s t) ∧
    ((s.framer n).rxState = .waitOp →
      ∃ t, exec (.pktRxbyte ⟨n, b⟩) s = .next t ∧
        t = { s with framers := t.framers, resp := .status .ok } ∧
        onlyStack n { s.framer n with pktOperation := b, rxState := .waitLen } s t) ∧
    ((s.framer n).rxState = .waitLen → b ≠ 0 →
      ∃ t, exec (.pktRxbyte ⟨n, b⟩) s = .next t ∧
        t = { s with framers := t.framers, resp := .status .ok } ∧
        onlyStack n { s.framer n with pktLen := b, dataCnt := 0, rxState := .waitData } s t) ∧
    ((s.framer n).rxState = .waitData → cellsWf (s.framer n).pktData = true →
      (s.framer n).dataCnt.toNat + 1 < (s.framer n).pktLen.toNat →
      ∃ t, exec (.pktRxbyte ⟨n, b⟩) s = .next t ∧
        t = { s with framers := t.framers, resp := .status .ok } ∧
        onlyStack n
          { s.framer n with
            pktData := (t.framer n).pktData
            dataCnt := (s.framer n).dataCnt + 1 } s t ∧
        (∀ a, cellRead (t.framer n).pktData a =
          if a = (s.framer n).dataCnt.toNat then b else cellRead (s.framer n).pktData a))

/-- R212 and R213: the byte that completes a packet, a zero length byte or the last byte of the payload. The
machine is back in WaitSelf; the callback is called with the stack's handle and the packet when one is registered
and the packet is for this address, and the packet is counted otherwise. That the operation then stops inside
the callback, with the answer in progress until the callback returns (60_exceptions R242 over 20_memory R71),
is the model's (log entries 12 and 22). -/
def Obligations.LastByteDeliversPacket : Prop :=
  ∀ (s : State) (n : Nat) (b : Byte) (p : Packet), (s.framer n).constructed = true →
    FgFrame.recvCb n ∉ s.fg → cellsWf (s.framer n).pktData = true →
    p.selfAddr = (s.framer n).pktSelf → p.destAddr = (s.framer n).pktDest →
    p.operation = (s.framer n).pktOperation →
    ((s.framer n).rxState = .waitLen ∧ b = 0 ∧ p.len = 0 ∧ p.data = [] ∨
      (s.framer n).rxState = .waitData ∧
        (s.framer n).dataCnt.toNat + 1 = (s.framer n).pktLen.toNat ∧ p.len = (s.framer n).pktLen ∧
        p.data = cellReadAll (s.framer n).pktData 0 (s.framer n).dataCnt.toNat ++ [b]) →
    ∃ t, exec (.pktRxbyte ⟨n, b⟩) s = .next t ∧
      onlyStack n
        { s.framer n with
          rxState := .waitSelf
          pktLen := p.len
          pktData := (t.framer n).pktData
          dataCnt := BitVec.ofNat 8 p.data.length
          unhandledCnt := (t.framer n).unhandledCnt } s t ∧
      (∀ a, cellRead (t.framer n).pktData a =
        if (s.framer n).rxState = .waitData ∧ a = (s.framer n).dataCnt.toNat then b
        else cellRead (s.framer n).pktData a) ∧
      (∀ cb, (s.framer n).rxCb = some cb → p.destAddr = (s.framer n).ownAddr →
        t = { s with
          framers := t.framers
          rxCalls := s.rxCalls ++ [⟨cb, n, p⟩]
          fg := .recvCb n :: s.fg
          resp := .inProgress } ∧
        (t.framer n).unhandledCnt = (s.framer n).unhandledCnt) ∧
      ((s.framer n).rxCb = none ∨ p.destAddr ≠ (s.framer n).ownAddr →
        t = { s with framers := t.framers, resp := .status .ok } ∧
        (t.framer n).unhandledCnt = (s.framer n).unhandledCnt + 1)

/-- R213 and R214: an application callback that returns with `OK` makes `PKT.RXBYTE` and `PKT.SEND` return `OK`,
and with any other status `CbFailed`, which an enclosing `PKT.RXBUF` remembers
(30_encoding R106). How a callback's return reaches the machine is the model's (log entry 12). -/
def Obligations.CallbackReturnEndsOperation : Prop :=
  ∀ (s : State) (st : Status) (fs : List FgFrame) (rest : List Agent) (ins : List Input) (n : Nat),
    edgeDeliverable s = false → s.sched = .fg :: rest → s.fgIn = .cbReturn st :: ins →
    (s.fg = .sendCb :: fs →
      step s = .next { s with
        sched := rest
        fgIn := ins
        fg := fs
        resp := .status (if st = .ok then .ok else .cbFailed) }) ∧
    (s.fg = .recvCb n :: fs → (∀ m r f gs, fs ≠ .rxbuf m r f :: gs) →
      step s = .next { s with
        sched := rest
        fgIn := ins
        fg := fs
        resp := .status (if st = .ok then .ok else .cbFailed) }) ∧
    (∀ m r f gs, s.fg = .recvCb n :: .rxbuf m r f :: gs →
      step s = .next { s with
        sched := rest
        fgIn := ins
        fg := .rxbuf m r (f || decide (st ≠ .ok)) :: gs
        resp := .status (if st = .ok then .ok else .cbFailed) })

/-- R214: the two checks in their order, and the one call of the transmit callback with the header and the
payload, for a callback of the application. That the call leaves the foreground inside the callback, with the
answer in progress until it returns, is the model's (log entries 12 and 22). Of a payload byte beyond a string
shorter than `len` nothing is said (log entry 10). -/
def Obligations.SendSerialisesIntoOneCall : Prop :=
  ∀ (s : State) (n : Nat) (dest opcode len : Byte) (data : Option (List Byte)),
    (s.framer n).constructed = true →
    (0 < len.toNat → data = none →
      exec (.pktSend ⟨n, dest⟩ opcode data len) s = .next { s with resp := .status .badParam }) ∧
    ((len.toNat = 0 ∨ data ≠ none) → (s.framer n).txCb = .absent →
      exec (.pktSend ⟨n, dest⟩ opcode data len) s = .next { s with resp := .status .txUnregistered }) ∧
    (∀ h, (s.framer n).txCb = .user h → (len.toNat = 0 ∨ data ≠ none) →
      ∃ payload : List Byte, payload.length = len.toNat ∧
        (∀ j, j < len.toNat → j < (data.getD []).length → payload[j]? = (data.getD [])[j]?) ∧
        exec (.pktSend ⟨n, dest⟩ opcode data len) s = .next { s with
          txCalls := s.txCalls ++
            [⟨.user h, [(s.framer n).ownAddr, dest, opcode, len] ++ payload, 4 + len.toNat,
              (s.framer n).txOpaque⟩]
          fg := .sendCb :: s.fg
          freeCtr := s.freeCtr + 1
          resp := .inProgress })

/-- R210 and R214 in the reference integration, where the transmit callback is `PHY.WRITE`: the packet is handed to it
once; its check step (43_phy_tx R193) turns away one that does not fit, which gives `CbFailed`, and has no
meaning outside Idle or before `PHY.INIT`; its begin step (R194) then starts the transmission and the
foreground waits. That the call, the check and the begin are turns of the foreground with the answer in progress,
and that a refusal of `PHY.WRITE` is one of the turn, is the model's choice (log entries 12, 20 and 22). Here no
interrupt step falls between them; `WriteBeginsTransmission` has the begin step after one. A payload byte
beyond a string shorter than `len` is free (log entry 10). -/
def Obligations.SendThroughPhyWrite : Prop :=
  ∀ (s : State) (n : Nat) (dest opcode len : Byte) (data : Option (List Byte)),
    (s.framer n).constructed = true → (s.framer n).txCb = .phyWrite →
    (len.toNat = 0 ∨ data ≠ none) → cellsWf s.phy.txbuf = true →
    ∃ (payload : List Byte) (v : State), payload.length = len.toNat ∧
      (∀ j, j < len.toNat → j < (data.getD []).length → payload[j]? = (data.getD [])[j]?) ∧
      exec (.pktSend ⟨n, dest⟩ opcode data len) s = .next v ∧
      v = { s with
        txCalls := s.txCalls ++
          [⟨.phyWrite, [(s.framer n).ownAddr, dest, opcode, len] ++ payload, 4 + len.toNat,
            (s.framer n).txOpaque⟩]
        fg := .writeCheck (some ([(s.framer n).ownAddr, dest, opcode, len] ++ payload))
          (4 + len.toNat) :: s.fg
        freeCtr := s.freeCtr + 1
        resp := .inProgress } ∧
      (s.instanceActive = false → fgTurn v = .refused .phyNotInitialised) ∧
      (s.instanceActive = true → s.params.txbufCap < 4 + len.toNat →
        fgTurn v = .next { v with fg := s.fg, resp := .status .cbFailed }) ∧
      (s.instanceActive = true → 4 + len.toNat ≤ s.params.txbufCap → s.phy.busState ≠ .idle →
        fgTurn v = .refused .writeNotIdle) ∧
      (s.instanceActive = true → 4 + len.toNat ≤ s.params.txbufCap → s.phy.busState = .idle →
        ∃ w t, fgTurn v = .next w ∧ fgTurn w = .next t ∧
          t = { v with
            fg := .write true :: s.fg
            freeCtr := t.freeCtr
            phy := { s.phy with
              txbuf := t.phy.txbuf
              timerLoad := t.phy.timerLoad
              txLen := 4 + len.toNat
              txByteCur := 0
              txBitCur := 0
              collate := false
              edgeIrqEnabled := false
              busState := .tx
              timerRunning := true } } ∧
          (∀ j b, ([(s.framer n).ownAddr, dest, opcode, len] ++ payload)[j]? = some b →
            cellRead t.phy.txbuf j = formatByte b) ∧
          (∀ j, 4 + len.toNat ≤ j → cellRead t.phy.txbuf j = cellRead s.phy.txbuf j))

/-- The laws R216 (i) and (ii): the bytes of a packet, fed one by one to a stack in WaitSelf with a callback,
call it exactly once, at the last byte, with the packet, when they are for this address, and add one to the
unhandled counter when they are not; either way the machine ends in WaitSelf. That the last byte leaves the
foreground inside the callback, with the answer in progress until it returns, is the model's (log entries 12
and 22); `CallbackReturnEndsOperation` has the `OK` that R216 speaks of. -/
def Obligations.PacketBytesDeliverOnce : Prop :=
  ∀ (s : State) (n : Nat) (src dest opcode : Byte) (payload : List Byte) (cb : Nat),
    (s.framer n).constructed = true → FgFrame.recvCb n ∉ s.fg →
    cellsWf (s.framer n).pktData = true → (s.framer n).rxState = .waitSelf →
    (s.framer n).rxCb = some cb → payload.length ≤ 255 →
    ∃ t, execAll
        (([src, dest, opcode, BitVec.ofNat 8 payload.length] ++ payload).map fun b => .pktRxbyte ⟨n, b⟩) s =
          .next t ∧
      onlyStack n
        { s.framer n with
          pktSelf := src
          pktDest := dest
          pktOperation := opcode
          pktLen := BitVec.ofNat 8 payload.length
          pktData := (t.framer n).pktData
          dataCnt := BitVec.ofNat 8 payload.length
          unhandledCnt := (t.framer n).unhandledCnt } s t ∧
      (∀ a, payload.length ≤ a →
        cellRead (t.framer n).pktData a = cellRead (s.framer n).pktData a) ∧
      (dest = (s.framer n).ownAddr →
        t = { s with
          framers := t.framers
          rxCalls := s.rxCalls ++
            [⟨cb, n, ⟨src, dest, opcode, BitVec.ofNat 8 payload.length, payload⟩⟩]
          fg := .recvCb n :: s.fg
          resp := .inProgress } ∧
        (t.framer n).unhandledCnt = (s.framer n).unhandledCnt) ∧
      (dest ≠ (s.framer n).ownAddr →
        t = { s with framers := t.framers, resp := .status .ok } ∧
        (t.framer n).unhandledCnt = (s.framer n).unhandledCnt + 1)

/-- The law R216 (iii), between two stacks of two blocks: what `PKT.SEND` hands to the transmit callback of one, fed to
the other, whose address is the destination, delivers the packet sent. The bytes are bound to the one call that
the model notes (log entry 17). -/
def Obligations.SentPacketIsDelivered : Prop :=
  ∀ (a b : State) (m n : Nat) (opcode : Byte) (payload : List Byte) (h cb : Nat),
    (a.framer m).constructed = true → (a.framer m).txCb = .user h → payload.length ≤ 255 →
    (b.framer n).constructed = true → FgFrame.recvCb n ∉ b.fg →
    cellsWf (b.framer n).pktData = true → (b.framer n).rxState = .waitSelf →
    (b.framer n).rxCb = some cb →
    ∃ a' bytes, exec (.pktSend ⟨m, (b.framer n).ownAddr⟩ opcode (some payload)
          (BitVec.ofNat 8 payload.length)) a = .next a' ∧
      a'.txCalls = a.txCalls ++ [⟨.user h, bytes, bytes.length, (a.framer m).txOpaque⟩] ∧
      ∃ b', execAll (bytes.map fun c => .pktRxbyte ⟨n, c⟩) b = .next b' ∧
        b'.rxCalls = b.rxCalls ++
          [⟨cb, n, ⟨(a.framer m).ownAddr, (b.framer n).ownAddr, opcode,
            BitVec.ofNat 8 payload.length, payload⟩⟩]

/-! ## The wire formats -/

/-- 30_encoding R106. Each pseudo-operation is its sequence of operations, in steps between which steps of the other
agent may fall: those of the interrupt agent put it at the head of that agent's inputs, and a read-back tick of
`PHY.TXRUN` sees the level just driven (of the levels of its other ticks, which the spec leaves open, nothing is
said, log entry 29); `PKT.RXBUF` hands one byte after another to `PKT.RXBYTE` and ends with `CbFailed` if one failed and else with `OK`; `PKT.POLL` reads a byte, hands it to `PKT.RXBYTE`, and again, until a read finds the FIFO empty. That they are inputs and turns in this
form is the model's choice (log entries 4 and 21), and so is that each wire format of the operation table is the
pseudo-operation that carries it (log entry 6): `FRAME22` is `PHY.RXFRAME`, `FMTWORD` the decoder fed with bits 0
to 21 of the word, `PKTHDR` the `PKT.RXBUF` of the four header bytes. -/
def Obligations.PseudoOperationsAndWireFormatsExpand : Prop :=
  (∀ (s : State) (w : BitVec 22) (b : Byte) (p : Bool) (n : Nat) (a d o l : Byte),
    exec (.frame22 w) s = .next { s with
      irqIn := (.op (encode .phyEdgeirq) :: (doubledTicks (frameSamples w)).map fun i => .op (encode i)) ++ s.irqIn
      resp := .nothing } ∧
    exec (.fmtword b p) s = .next { s with
      irqIn := (.op (encode .decStart) ::
        (samplesAndEdges (wordSamples (fmtwordBits b p))).map fun i => .op (encode i)) ++ s.irqIn
      resp := .nothing } ∧
    exec (.pkthdr ⟨n, a⟩ d o l) s = .next { s with
      fg := .rxbuf n [a, d, o, l] false :: s.fg
      resp := .inProgress }) ∧
  (∀ (s : State) (p : Pseudo) (ops : List Instr) (rest : List Agent) (ins : List Input),
    edgeDeliverable s = false → s.sched = .irq :: rest → s.irqIn = .pseudo p :: ins →
    ((∃ w, p = .decFrame w ∧ ops = .decStart :: samplesAndEdges (frameSamples w)) ∨
      (∃ b, p = .decFeed b ∧ ops = .decStart :: samplesAndEdges (wordSamples (formatByte b))) ∨
      (∃ w, p = .phyRxframe w ∧ ops = .phyEdgeirq :: doubledTicks (frameSamples w)) ∨
      (∃ b, p = .phyRxbyte b ∧ ops = .phyEdgeirq :: doubledTicks (wordSamples (formatByte b)))) →
    step s = .next { s with
      sched := rest
      irqIn := (ops.map fun i => .op (encode i)) ++ ins
      resp := .nothing }) ∧
  (∀ (s : State) (n : Nat) (rest : List Agent) (ins : List Input),
    edgeDeliverable s = false → s.sched = .irq :: rest → s.irqIn = .pseudo (.phyTxrun n) :: ins →
    step s = .next { s with
      sched := rest
      irqIn := List.replicate (44 * n) .txrunTick ++ ins
      resp := .nothing }) ∧
  (∀ (s : State) (rest : List Agent) (ins : List Input),
    edgeDeliverable s = false → s.sched = .irq :: rest → s.irqIn = .txrunTick :: ins →
    ∃ l : Bool, (s.phy.busState = .tx → s.phy.collate = true → l = s.phy.lastTxBit) ∧
      step s = exec (.phyTick l) { s with
        sched := rest
        irqIn := ins
        freeCtr := s.freeCtr + 1 }) ∧
  (∀ (s : State) (n : Nat) (rest : List Agent) (ins : List Input),
    edgeDeliverable s = false → s.sched = .fg :: rest →
    (s.fg = [] ∨ ∃ fs, s.fg = .sendCb :: fs ∨ ∃ m, s.fg = .recvCb m :: fs) →
    (∀ bytes, s.fgIn = .pseudo (.pktRxbuf n bytes) :: ins →
      step s = .next { s with
        sched := rest
        fgIn := ins
        fg := .rxbuf n bytes false :: s.fg
        resp := .inProgress }) ∧
    (s.fgIn = .pseudo (.pktPoll n) :: ins →
      step s = .next { s with
        sched := rest
        fgIn := ins
        fg := .poll n none :: s.fg
        resp := .inProgress })) ∧
  (∀ (s : State) (n : Nat) (fs : List FgFrame) (rest : List Agent),
    edgeDeliverable s = false → s.sched = .fg :: rest →
    (∀ b bs failed, s.fg = .rxbuf n (b :: bs) failed :: fs →
      step s = exec (.pktRxbyte ⟨n, b⟩) { s with sched := rest, fg := .rxbuf n bs failed :: fs }) ∧
    (∀ failed, s.fg = .rxbuf n [] failed :: fs →
      step s = .next { s with
        sched := rest
        fg := fs
        resp := .status (if failed then .cbFailed else .ok) }) ∧
    (s.fg = .poll n none :: fs → s.instanceActive = true → s.fifo.valid = true →
      s.fifo.rd = s.fifo.wr →
      step s = .next { s with sched := rest, fg := fs, resp := .status .bufferEmpty }) ∧
    (s.fg = .poll n none :: fs → s.instanceActive = true → s.fifo.valid = true →
      s.fifo.esz = 1 → s.fifo.rd ≤ s.fifo.cap → s.fifo.rd ≠ s.fifo.wr →
      step s = .next { s with
        sched := rest
        fifo := { s.fifo with rd := (s.fifo.rd + 1) % (s.fifo.cap + 1) }
        fg := .poll n (some (cellRead s.fifo.store s.fifo.rd)) :: fs
        resp := .element [cellRead s.fifo.store s.fifo.rd] }) ∧
    (∀ b, s.fg = .poll n (some b) :: fs →
      step s = exec (.pktRxbyte ⟨n, b⟩) { s with sched := rest, fg := .poll n none :: fs }))

/-! ## Encoding (30_encoding) -/

/-- Decode and encode agree: every well-formed operation of the table is read back from its code, with every
operand. -/
def Obligations.DecodeReadsBackEncode : Prop :=
  ∀ i : Instr, i.wf = true → decode (encode i) = .ok i

/-- A code has one meaning: what a code decodes to encodes to that code. -/
def Obligations.EncodeReadsBackDecode : Prop :=
  ∀ (c : Code) (i : Instr), decode c = .ok i → encode i = c

/-- R101 and R103: an operation word with an `op` byte outside the table names no operation, and neither does one
with a set bit of `arg` that its operation does not use; and a step whose agent is offered a code that names no
operation is refused (93_implementation_defined U11). Whether `FIFO.PUSH` uses its `arg` depends on `F.esz`, so a set
bit of it is refused by the operation itself. That a code is an input of an agent is the model's (log entry 4). -/
def Obligations.UnlistedWordsAreInvalid : Prop :=
  (∀ (op arg : Byte) (o : OutOfBand),
    (op ∈ [0x00, 0x03, 0x04, 0x05, 0x06, 0x07, 0x08, 0x10, 0x11, 0x13, 0x14, 0x20, 0x22, 0x23, 0x24, 0x32] ∧
        arg ≠ 0 ∨ op ∈ [0x02, 0x12, 0x21, 0x25] ∧ 1 < arg.toNat →
      decode ⟨.opw, (opWord op arg).setWidth 32, o⟩ = .error (.unusedArgBits op arg)) ∧
    (¬ (op.toNat ≤ 0x08 ∨ 0x10 ≤ op.toNat ∧ op.toNat ≤ 0x14 ∨ 0x20 ≤ op.toNat ∧ op.toNat ≤ 0x26 ∨
      0x30 ≤ op.toNat ∧ op.toNat ≤ 0x32) →
      decode ⟨.opw, (opWord op arg).setWidth 32, o⟩ = .error (.unknownOperation op))) ∧
  (∀ (s : State) (c : Code) (e : DecodeError) (rest : List Agent) (ins : List Input),
    edgeDeliverable s = false → decode c = .error e →
    (s.sched = .irq :: rest → s.irqIn = .op c :: ins → step s = .refused (.invalidWord e)) ∧
    (s.sched = .fg :: rest → s.fgIn = .op c :: ins →
      (s.fg = [] ∨ ∃ fs, s.fg = .sendCb :: fs ∨ ∃ m, s.fg = .recvCb m :: fs) →
      step s = .refused (.invalidWord e))) ∧
  (∀ (s : State) (arg : Byte) (wide : List Byte), s.fifo.valid = true → s.fifo.esz ≠ 1 → arg ≠ 0 →
    exec (.fifoPush arg wide) s = .refused (.invalidWord (.unusedArgBits 0x01 arg)))

/-- Words of the table written out from their encodings, one of each unit and of each wire format. That the format
of a word is told from its number of bits, that `FRAME22` has sample 0 as its leftmost bit, and that 32 bits
with the fixed bits of R93 are a `FMTWORD` and not a `PKTHDR`, is the model's choice (log entry 7); so is the
handle 0 of a stack that is not named (log entries 5 and 19). -/
def Obligations.TableWordsDecode : Prop :=
  decodeTableWord 16 0x0141 = some (.fifoPush 0x41 []) ∧
  decodeTableWord 16 0x1201 = some (.decSample true) ∧
  decodeTableWord 16 0x2500 = some (.phyTick false) ∧
  decodeTableWord 16 0x3110 = some (.pktRxbyte ⟨0, 0x10⟩) ∧
  decodeTableWord 24 0b0111011101011101110111 = some (.frame22 0b0111011101011101110111#22) ∧
  decodeTableWord 32 0x003BBAEE = some (.fmtword 0xA5 false) ∧
  decodeTableWord 32 0x10052A03 = some (.pkthdr ⟨0, 0x10⟩ 0x05 0x2A 0x03)

/-! ## The step -/

/-- A step runs the decoded operation: when no remembered edge is to be delivered, and the schedule names an agent
whose next input is a code that decodes to an operation it may perform, and, for the foreground, it is inside
nothing or inside an application callback, then the step is `exec` of that operation on the state with the
input and the turn used up. The one exception is a decoder event on its own that would start or end a frame of an
initialised block: with the parameter `loneDecoderEvents` false it is not offered and the step is no step, with it
true it is performed. The parameter is the model's (log entry 15), and so are the schedule and the inputs (log
entry 4). -/
def Obligations.StepRunsDecodedOperation : Prop :=
  ∀ (s : State) (c : Code) (i : Instr) (turns : List Agent) (ins : List Input),
    edgeDeliverable s = false → decode c = .ok i →
    (s.sched = .irq :: turns → s.irqIn = .op c :: ins → i.performer ≠ .fgOnly →
      ((isDecoderEvent i = true → s.instanceActive = true → s.params.loneDecoderEvents = false →
          ∀ t, exec i s = .next t → t.dec.ongoing = s.dec.ongoing) →
        step s = exec i { s with sched := turns, irqIn := ins }) ∧
      (isDecoderEvent i = true → s.instanceActive = true → s.params.loneDecoderEvents = false →
        (∃ t, exec i s = .next t ∧ t.dec.ongoing ≠ s.dec.ongoing) →
        step s = .next { s with sched := turns, irqIn := ins, resp := .noStep })) ∧
    (s.sched = .fg :: turns → s.fgIn = .op c :: ins → i.performer ≠ .irqOnly →
      (s.fg = [] ∨ ∃ fs, s.fg = .sendCb :: fs ∨ ∃ n, s.fg = .recvCb n :: fs) →
      step s = exec i { s with sched := turns, fgIn := ins })

/-- 60_exceptions R243: an operation performed by the wrong agent is refused, in every situation in which the agent takes
an input; and the agent of each operation word is the one of the column `agent` of 30_encoding R103, `FMT`
being either's. For the three wire formats, which have no agent in the table, it is the model's choice (log
entry 16); that operations are inputs taken by turns is the model's too (log entry 4). -/
def Obligations.WrongAgentIsRefused : Prop :=
  (∀ i : Instr, i.format = .opw →
    (i.performer = .irqOnly ↔ i.word.extractLsb' 8 8 ∈
      ([0x01, 0x10, 0x11, 0x12, 0x13, 0x14, 0x24, 0x25] : List Byte)) ∧
    (i.performer = .anyAgent ↔ i.word.extractLsb' 8 8 ∈ ([0x06, 0x07, 0x26] : List Byte)) ∧
    (i.performer = .fgOnly ↔ i.word.extractLsb' 8 8 ∈
      ([0x00, 0x02, 0x03, 0x04, 0x05, 0x08, 0x20, 0x21, 0x22, 0x23, 0x30, 0x31, 0x32] : List Byte))) ∧
  (∀ i : Instr, (i.format = .frame22 ∨ i.format = .fmtword → i.performer = .irqOnly) ∧
    (i.format = .pkthdr → i.performer = .fgOnly)) ∧
  (∀ (s : State) (c : Code) (i : Instr) (turns : List Agent) (ins : List Input),
    edgeDeliverable s = false → decode c = .ok i →
    (s.sched = .irq :: turns → s.irqIn = .op c :: ins → i.performer = .fgOnly →
      step s = .refused .wrongAgent) ∧
    (s.sched = .fg :: turns → s.fgIn = .op c :: ins → i.performer = .irqOnly →
      (s.fg = [] ∨ ∃ fs, s.fg = .sendCb :: fs ∨ ∃ n, s.fg = .recvCb n :: fs) →
      step s = .refused .wrongAgent))

/-- The model's choice for `EDGE_PENDING_ON_REARM` (60_exceptions R237; log entry 14): with the parameter true the
external detector remembers a masked edge; a remembered edge is delivered at the first step at which the
edge interrupt is armed, which uses it up, and in Idle with no frame in progress starts a frame. -/
def Obligations.RememberedEdgeStartsFrameAtOnce : Prop :=
  ∀ s : State, s.instanceActive = true →
    (s.phy.edgeIrqEnabled = false → s.params.edgePendingOnRearm = true →
      exec .phyEdgeirq s = .next { s with
        phy := { s.phy with edgePending := true }
        resp := .noStep }) ∧
    (s.phy.edgePending = true → s.phy.edgeIrqEnabled = true → s.dec.ongoing = false →
      step s = .next { s with
        dec := ⟨true, false, false, 0, 0, 0, 0⟩
        phy := { s.phy with
          edgeIrqEnabled := false
          timerRunning := true
          timerLoad := s.phy.centerOffset
          busState := .rx
          edgePending := false }
        resp := .status .ok })

/-! ## Before initialisation -/

/-- What the spec gives no meaning is refused, each by its own name: an operation of a unit before its initialising
operation (30_encoding R102), for `PHY.EDGEIRQ` and `PHY.TICK` by the model's reading (log entry 13: R240 would
mask them as well); `PHY.READ` and the completion of a clean frame on a FIFO that is not valid (40_fifo R130 under
42_phy_rx R177 and R176); `FIFO.INIT`, and the one inside `PHY.INIT` by the model's reading (log entry 23), on a
valid FIFO (40_fifo R131); a tick with the timer running outside Rx and Tx
(42_phy_rx R174); and `PKT.RXBYTE` on a stack inside its own receive callback (44_packet_framer R211). -/
def Obligations.OperationsBeforeInitRefused : Prop :=
  ∀ s : State,
    (s.fifo.valid = false →
      ∀ i, i = .fifoPeek ∨ i = .fifoClear ∨ i = .fifoCap ∨ i = .fifoLen ∨ i = .fifoFree ∨
        (∃ w, i = .fifoPop w) ∨ (∃ m, i = .fifoReadn m) ∨ (∃ a w, i = .fifoPush a w) →
      exec i s = .refused .fifoNotValid) ∧
    (s.instanceActive = false →
      ∀ i, i = .phyRead ∨ i = .phyEdgeirq ∨ (∃ l, i = .phyTick l) ∨ (∃ e, i = .phyTxen e) ∨
        (∃ d n, i = .phyWrite d n) →
      exec i s = .refused .phyNotInitialised) ∧
    (∀ n, (s.framer n).constructed = false →
      ∀ i, (∃ b, i = .pktRxbyte ⟨n, b⟩) ∨ (∃ d o p l, i = .pktSend ⟨n, d⟩ o p l) →
      exec i s = .refused .framerNotConstructed) ∧
    (s.fifo.valid = true → s.instanceActive = false →
      exec .phyInit s = .refused .fifoAlreadyValid) ∧
    (s.fifo.valid = true → ∀ c e, exec (.fifoInit c e) s = .refused .fifoAlreadyValid) ∧
    (s.instanceActive = true → s.fifo.valid = false → exec .phyRead s = .refused .fifoNotValid) ∧
    (s.instanceActive = true → s.phy.timerRunning = true → s.phy.busState = .rx →
      s.dec.ongoing = true → s.dec.expectingEdge = false → s.dec.totalCnt = 21 →
      s.dec.expectingOffduty = true → s.dec.errorFlags = 0 → s.fifo.valid = false →
      exec (.phyTick true) s = .refused .fifoNotValid) ∧
    (s.instanceActive = true → s.phy.timerRunning = true → s.phy.busState ≠ .rx →
      s.phy.busState ≠ .tx → ∀ l, exec (.phyTick l) s = .refused .tickOutsideRxTx) ∧
    (∀ n, (s.framer n).constructed = true → FgFrame.recvCb n ∈ s.fg →
      ∀ b, exec (.pktRxbyte ⟨n, b⟩) s = .refused .reentrantRxbyte)

/-- 10_state R42 and 60_exceptions R236: what the spec gives of the state before any initialisation. -/
def Obligations.ResetIsUninitialised : Prop :=
  State.reset.instanceActive = false ∧ State.reset.phy.busState = .unknown ∧
    State.reset.phy.edgeIrqEnabled = false ∧ State.reset.phy.timerRunning = false

/-! ## Invariants of the whole machine -/

/-- The invariants of 10_state R23, R25, R36 and R38, of 43_phy_tx R202, and the canonical form of the storage arrays,
are kept by every step. R36 (iv), a frame in progress exactly in Rx once `PHY.INIT` has returned `OK`, is among them
where the inputs of an initialised block are those of 00_scope R10. Where the parameter `loneDecoderEvents` adds
decoder events on their own to them, it is kept by every step but that of one which starts or ends a frame, as
41_rx_decoder R151, R154 and R156 have it (log entry 15). -/
def Obligations.EveryStepKeepsInvariants : Prop :=
  ∀ s t : State, BlockInv s → step s = .next t →
    BlockInv t ∧
    ((s.instanceActive = true → rxMatchesDecoder s) →
      (t.instanceActive = true → rxMatchesDecoder t) ∨
        (s.params.loneDecoderEvents = true ∧ loneDecoderEvent s ∧ t.dec.ongoing ≠ s.dec.ongoing))

/-- The invariants hold in the model's state before any initialisation. Of it the spec gives the bus state, the
absence of an instance and the two interrupt enables (10_state R42, 60_exceptions R236); the rest of what makes them
hold there, the decoder at zero, nothing listed in the arrays, no framer, is the model's choice (log entries 1, 2
and 3). -/
def Obligations.InvariantsHoldAtReset : Prop := BlockInv State.reset

/-- 20_memory R62: no access is out of range, so no step faults. -/
def Obligations.NoStepFaults : Prop :=
  ∀ (s : State) (f : Fault), BlockInv s → step s ≠ .fault f

/-- 10_state R36 (iv), operation by operation: every operation but the decoder's events keeps it, a `PHY.INIT` that
initialises establishes it from every state, and a decoder event performed on its own keeps it exactly when it
starts and ends no frame (log entry 15). -/
def Obligations.FrameInProgressExactlyInRx : Prop :=
  (∀ (i : Instr) (s t : State), isDecoderEvent i = false → BusInv s → rxMatchesDecoder s →
    exec i s = .next t → rxMatchesDecoder t) ∧
  (∀ s t : State, s.instanceActive = false → exec .phyInit s = .next t → t.instanceActive = true →
    rxMatchesDecoder t) ∧
  (∀ (i : Instr) (s t : State), isDecoderEvent i = true → rxMatchesDecoder s → exec i s = .next t →
    (rxMatchesDecoder t ↔ t.dec.ongoing = s.dec.ongoing))

/-- 20_memory R73, once initialisation is done. No operation of the interrupt agent writes a framer, the transmit words
and their number, the enable, the reset line, the FIFO's read index, or what the foreground is inside of. No
operation of the foreground but `PHY.INIT` writes the decoder, the output line, the last bit sent, a counter, the
cursors, the phase flag, the transmit words and their number, the bus state, the timer or the edge enable, and
none but `FIFO.INIT` and `FIFO.FREE` writes the FIFO's write index or its storage. Of all the turns of the
foreground of an initialised block only the begin step of `PHY.WRITE` writes the bus state, the timer, the edge
enable, the transmit words, and the cursors and the phase flag, the last two by R194 over R73 (log entry 25). -/
def Obligations.AgentsWriteOnlyTheirOwnState : Prop :=
  (∀ (i : Instr) (s t : State), exec i s = .next t →
    (i.performer = .irqOnly →
      t.framers = s.framers ∧ t.phy.txbuf = s.phy.txbuf ∧ t.phy.txLen = s.phy.txLen ∧
      t.phy.txEnabled = s.phy.txEnabled ∧ t.phy.rstLine = s.phy.rstLine ∧
      t.fifo.rd = s.fifo.rd ∧ t.params = s.params ∧ t.fg = s.fg) ∧
    (i.performer = .fgOnly → i ≠ .phyInit →
      t.dec = s.dec ∧ t.phy.din = s.phy.din ∧ t.phy.lastTxBit = s.phy.lastTxBit ∧
      t.phy.logStart = s.phy.logStart ∧ t.phy.logParity = s.phy.logParity ∧
      t.phy.logStop = s.phy.logStop ∧ t.phy.logOffduty = s.phy.logOffduty ∧
      t.phy.logOverflow = s.phy.logOverflow ∧ t.phy.logReentrant = s.phy.logReentrant ∧
      t.phy.busState = s.phy.busState ∧ t.phy.timerRunning = s.phy.timerRunning ∧
      t.phy.edgeIrqEnabled = s.phy.edgeIrqEnabled ∧ t.phy.txByteCur = s.phy.txByteCur ∧
      t.phy.txBitCur = s.phy.txBitCur ∧ t.phy.collate = s.phy.collate ∧
      t.phy.txbuf = s.phy.txbuf ∧ t.phy.txLen = s.phy.txLen ∧
      t.params = s.params ∧ t.driven = s.driven ∧
      (i ≠ .fifoFree → (∀ c e, i ≠ .fifoInit c e) →
        t.fifo.wr = s.fifo.wr ∧ t.fifo.store = s.fifo.store))) ∧
  (∀ s t : State, s.instanceActive = true → fgTurn s = .next t →
    t.dec = s.dec ∧ t.phy.din = s.phy.din ∧ t.phy.lastTxBit = s.phy.lastTxBit ∧
    t.phy.logStart = s.phy.logStart ∧ t.phy.logParity = s.phy.logParity ∧
    t.phy.logStop = s.phy.logStop ∧ t.phy.logOffduty = s.phy.logOffduty ∧
    t.phy.logOverflow = s.phy.logOverflow ∧ t.phy.logReentrant = s.phy.logReentrant ∧
    t.driven = s.driven ∧
    ((∀ data len inSend fs, s.fg ≠ .writeBegin data len inSend :: fs) →
      t.phy.busState = s.phy.busState ∧ t.phy.timerRunning = s.phy.timerRunning ∧
      t.phy.edgeIrqEnabled = s.phy.edgeIrqEnabled ∧ t.phy.txByteCur = s.phy.txByteCur ∧
      t.phy.txBitCur = s.phy.txBitCur ∧ t.phy.collate = s.phy.collate ∧
      t.phy.txbuf = s.phy.txbuf ∧ t.phy.txLen = s.phy.txLen))
end

