-- ==== Sys2Proof/Laws/State.lean ====
section
/-! SUPPORT. One lemma per field per named update of the state, so that no proof unfolds an update. -/

namespace Sys2Proof.Machine

variable (s : State)

section setFifoFields
variable (f : Fifo)
@[simp] theorem setFifo_params : (s.setFifo f).params = s.params := rfl
@[simp] theorem setFifo_fifo : (s.setFifo f).fifo = f := rfl
@[simp] theorem setFifo_dec : (s.setFifo f).dec = s.dec := rfl
@[simp] theorem setFifo_phy : (s.setFifo f).phy = s.phy := rfl
@[simp] theorem setFifo_instanceActive : (s.setFifo f).instanceActive = s.instanceActive := rfl
@[simp] theorem setFifo_framers : (s.setFifo f).framers = s.framers := rfl
@[simp] theorem setFifo_fg : (s.setFifo f).fg = s.fg := rfl
@[simp] theorem setFifo_sched : (s.setFifo f).sched = s.sched := rfl
@[simp] theorem setFifo_irqIn : (s.setFifo f).irqIn = s.irqIn := rfl
@[simp] theorem setFifo_fgIn : (s.setFifo f).fgIn = s.fgIn := rfl
@[simp] theorem setFifo_resp : (s.setFifo f).resp = s.resp := rfl
@[simp] theorem setFifo_driven : (s.setFifo f).driven = s.driven := rfl
@[simp] theorem setFifo_rxCalls : (s.setFifo f).rxCalls = s.rxCalls := rfl
@[simp] theorem setFifo_txCalls : (s.setFifo f).txCalls = s.txCalls := rfl
@[simp] theorem setFifo_freeCtr : (s.setFifo f).freeCtr = s.freeCtr := rfl
@[simp] theorem setFifo_framer (m : Nat) : (s.setFifo f).framer m = s.framer m := rfl
end setFifoFields

section setDecFields
variable (d : Decoder)
@[simp] theorem setDec_params : (s.setDec d).params = s.params := rfl
@[simp] theorem setDec_fifo : (s.setDec d).fifo = s.fifo := rfl
@[simp] theorem setDec_dec : (s.setDec d).dec = d := rfl
@[simp] theorem setDec_phy : (s.setDec d).phy = s.phy := rfl
@[simp] theorem setDec_instanceActive : (s.setDec d).instanceActive = s.instanceActive := rfl
@[simp] theorem setDec_framers : (s.setDec d).framers = s.framers := rfl
@[simp] theorem setDec_fg : (s.setDec d).fg = s.fg := rfl
@[simp] theorem setDec_sched : (s.setDec d).sched = s.sched := rfl
@[simp] theorem setDec_irqIn : (s.setDec d).irqIn = s.irqIn := rfl
@[simp] theorem setDec_fgIn : (s.setDec d).fgIn = s.fgIn := rfl
@[simp] theorem setDec_resp : (s.setDec d).resp = s.resp := rfl
@[simp] theorem setDec_driven : (s.setDec d).driven = s.driven := rfl
@[simp] theorem setDec_rxCalls : (s.setDec d).rxCalls = s.rxCalls := rfl
@[simp] theorem setDec_txCalls : (s.setDec d).txCalls = s.txCalls := rfl
@[simp] theorem setDec_freeCtr : (s.setDec d).freeCtr = s.freeCtr := rfl
@[simp] theorem setDec_framer (m : Nat) : (s.setDec d).framer m = s.framer m := rfl
end setDecFields

section setPhyFields
variable (p : Phy)
@[simp] theorem setPhy_params : (s.setPhy p).params = s.params := rfl
@[simp] theorem setPhy_fifo : (s.setPhy p).fifo = s.fifo := rfl
@[simp] theorem setPhy_dec : (s.setPhy p).dec = s.dec := rfl
@[simp] theorem setPhy_phy : (s.setPhy p).phy = p := rfl
@[simp] theorem setPhy_instanceActive : (s.setPhy p).instanceActive = s.instanceActive := rfl
@[simp] theorem setPhy_framers : (s.setPhy p).framers = s.framers := rfl
@[simp] theorem setPhy_fg : (s.setPhy p).fg = s.fg := rfl
@[simp] theorem setPhy_sched : (s.setPhy p).sched = s.sched := rfl
@[simp] theorem setPhy_irqIn : (s.setPhy p).irqIn = s.irqIn := rfl
@[simp] theorem setPhy_fgIn : (s.setPhy p).fgIn = s.fgIn := rfl
@[simp] theorem setPhy_resp : (s.setPhy p).resp = s.resp := rfl
@[simp] theorem setPhy_driven : (s.setPhy p).driven = s.driven := rfl
@[simp] theorem setPhy_rxCalls : (s.setPhy p).rxCalls = s.rxCalls := rfl
@[simp] theorem setPhy_txCalls : (s.setPhy p).txCalls = s.txCalls := rfl
@[simp] theorem setPhy_freeCtr : (s.setPhy p).freeCtr = s.freeCtr := rfl
@[simp] theorem setPhy_framer (m : Nat) : (s.setPhy p).framer m = s.framer m := rfl
end setPhyFields

section setFramerFields
variable (n : Nat) (k : Framer)
@[simp] theorem setFramer_params : (s.setFramer n k).params = s.params := rfl
@[simp] theorem setFramer_fifo : (s.setFramer n k).fifo = s.fifo := rfl
@[simp] theorem setFramer_dec : (s.setFramer n k).dec = s.dec := rfl
@[simp] theorem setFramer_phy : (s.setFramer n k).phy = s.phy := rfl
@[simp] theorem setFramer_instanceActive : (s.setFramer n k).instanceActive = s.instanceActive := rfl
@[simp] theorem setFramer_framers : (s.setFramer n k).framers = framerPut n k s.framers := rfl
@[simp] theorem setFramer_fg : (s.setFramer n k).fg = s.fg := rfl
@[simp] theorem setFramer_sched : (s.setFramer n k).sched = s.sched := rfl
@[simp] theorem setFramer_irqIn : (s.setFramer n k).irqIn = s.irqIn := rfl
@[simp] theorem setFramer_fgIn : (s.setFramer n k).fgIn = s.fgIn := rfl
@[simp] theorem setFramer_resp : (s.setFramer n k).resp = s.resp := rfl
@[simp] theorem setFramer_driven : (s.setFramer n k).driven = s.driven := rfl
@[simp] theorem setFramer_rxCalls : (s.setFramer n k).rxCalls = s.rxCalls := rfl
@[simp] theorem setFramer_txCalls : (s.setFramer n k).txCalls = s.txCalls := rfl
@[simp] theorem setFramer_freeCtr : (s.setFramer n k).freeCtr = s.freeCtr := rfl
end setFramerFields

section setFgFields
variable (fs : List FgFrame)
@[simp] theorem setFg_params : (s.setFg fs).params = s.params := rfl
@[simp] theorem setFg_fifo : (s.setFg fs).fifo = s.fifo := rfl
@[simp] theorem setFg_dec : (s.setFg fs).dec = s.dec := rfl
@[simp] theorem setFg_phy : (s.setFg fs).phy = s.phy := rfl
@[simp] theorem setFg_instanceActive : (s.setFg fs).instanceActive = s.instanceActive := rfl
@[simp] theorem setFg_framers : (s.setFg fs).framers = s.framers := rfl
@[simp] theorem setFg_fg : (s.setFg fs).fg = fs := rfl
@[simp] theorem setFg_sched : (s.setFg fs).sched = s.sched := rfl
@[simp] theorem setFg_irqIn : (s.setFg fs).irqIn = s.irqIn := rfl
@[simp] theorem setFg_fgIn : (s.setFg fs).fgIn = s.fgIn := rfl
@[simp] theorem setFg_resp : (s.setFg fs).resp = s.resp := rfl
@[simp] theorem setFg_driven : (s.setFg fs).driven = s.driven := rfl
@[simp] theorem setFg_rxCalls : (s.setFg fs).rxCalls = s.rxCalls := rfl
@[simp] theorem setFg_txCalls : (s.setFg fs).txCalls = s.txCalls := rfl
@[simp] theorem setFg_freeCtr : (s.setFg fs).freeCtr = s.freeCtr := rfl
@[simp] theorem setFg_framer (m : Nat) : (s.setFg fs).framer m = s.framer m := rfl
end setFgFields

section activateFields
@[simp] theorem activate_params : s.activate.params = s.params := rfl
@[simp] theorem activate_fifo : s.activate.fifo = s.fifo := rfl
@[simp] theorem activate_dec : s.activate.dec = s.dec := rfl
@[simp] theorem activate_phy : s.activate.phy = s.phy := rfl
@[simp] theorem activate_instanceActive : s.activate.instanceActive = true := rfl
@[simp] theorem activate_framers : s.activate.framers = s.framers := rfl
@[simp] theorem activate_fg : s.activate.fg = s.fg := rfl
@[simp] theorem activate_sched : s.activate.sched = s.sched := rfl
@[simp] theorem activate_irqIn : s.activate.irqIn = s.irqIn := rfl
@[simp] theorem activate_fgIn : s.activate.fgIn = s.fgIn := rfl
@[simp] theorem activate_resp : s.activate.resp = s.resp := rfl
@[simp] theorem activate_driven : s.activate.driven = s.driven := rfl
@[simp] theorem activate_rxCalls : s.activate.rxCalls = s.rxCalls := rfl
@[simp] theorem activate_txCalls : s.activate.txCalls = s.txCalls := rfl
@[simp] theorem activate_freeCtr : s.activate.freeCtr = s.freeCtr := rfl
@[simp] theorem activate_framer (m : Nat) : s.activate.framer m = s.framer m := rfl
end activateFields

section setIrqInFields
variable (is : List Input)
@[simp] theorem setIrqIn_params : (s.setIrqIn is).params = s.params := rfl
@[simp] theorem setIrqIn_fifo : (s.setIrqIn is).fifo = s.fifo := rfl
@[simp] theorem setIrqIn_dec : (s.setIrqIn is).dec = s.dec := rfl
@[simp] theorem setIrqIn_phy : (s.setIrqIn is).phy = s.phy := rfl
@[simp] theorem setIrqIn_instanceActive : (s.setIrqIn is).instanceActive = s.instanceActive := rfl
@[simp] theorem setIrqIn_framers : (s.setIrqIn is).framers = s.framers := rfl
@[simp] theorem setIrqIn_fg : (s.setIrqIn is).fg = s.fg := rfl
@[simp] theorem setIrqIn_sched : (s.setIrqIn is).sched = s.sched := rfl
@[simp] theorem setIrqIn_irqIn : (s.setIrqIn is).irqIn = is := rfl
@[simp] theorem setIrqIn_fgIn : (s.setIrqIn is).fgIn = s.fgIn := rfl
@[simp] theorem setIrqIn_resp : (s.setIrqIn is).resp = s.resp := rfl
@[simp] theorem setIrqIn_driven : (s.setIrqIn is).driven = s.driven := rfl
@[simp] theorem setIrqIn_rxCalls : (s.setIrqIn is).rxCalls = s.rxCalls := rfl
@[simp] theorem setIrqIn_txCalls : (s.setIrqIn is).txCalls = s.txCalls := rfl
@[simp] theorem setIrqIn_freeCtr : (s.setIrqIn is).freeCtr = s.freeCtr := rfl
@[simp] theorem setIrqIn_framer (m : Nat) : (s.setIrqIn is).framer m = s.framer m := rfl
end setIrqInFields

section setFgInFields
variable (is : List Input)
@[simp] theorem setFgIn_params : (s.setFgIn is).params = s.params := rfl
@[simp] theorem setFgIn_fifo : (s.setFgIn is).fifo = s.fifo := rfl
@[simp] theorem setFgIn_dec : (s.setFgIn is).dec = s.dec := rfl
@[simp] theorem setFgIn_phy : (s.setFgIn is).phy = s.phy := rfl
@[simp] theorem setFgIn_instanceActive : (s.setFgIn is).instanceActive = s.instanceActive := rfl
@[simp] theorem setFgIn_framers : (s.setFgIn is).framers = s.framers := rfl
@[simp] theorem setFgIn_fg : (s.setFgIn is).fg = s.fg := rfl
@[simp] theorem setFgIn_sched : (s.setFgIn is).sched = s.sched := rfl
@[simp] theorem setFgIn_irqIn : (s.setFgIn is).irqIn = s.irqIn := rfl
@[simp] theorem setFgIn_fgIn : (s.setFgIn is).fgIn = is := rfl
@[simp] theorem setFgIn_resp : (s.setFgIn is).resp = s.resp := rfl
@[simp] theorem setFgIn_driven : (s.setFgIn is).driven = s.driven := rfl
@[simp] theorem setFgIn_rxCalls : (s.setFgIn is).rxCalls = s.rxCalls := rfl
@[simp] theorem setFgIn_txCalls : (s.setFgIn is).txCalls = s.txCalls := rfl
@[simp] theorem setFgIn_freeCtr : (s.setFgIn is).freeCtr = s.freeCtr := rfl
@[simp] theorem setFgIn_framer (m : Nat) : (s.setFgIn is).framer m = s.framer m := rfl
end setFgInFields

section setSchedFields
variable (as : List Agent)
@[simp] theorem setSched_params : (s.setSched as).params = s.params := rfl
@[simp] theorem setSched_fifo : (s.setSched as).fifo = s.fifo := rfl
@[simp] theorem setSched_dec : (s.setSched as).dec = s.dec := rfl
@[simp] theorem setSched_phy : (s.setSched as).phy = s.phy := rfl
@[simp] theorem setSched_instanceActive : (s.setSched as).instanceActive = s.instanceActive := rfl
@[simp] theorem setSched_framers : (s.setSched as).framers = s.framers := rfl
@[simp] theorem setSched_fg : (s.setSched as).fg = s.fg := rfl
@[simp] theorem setSched_sched : (s.setSched as).sched = as := rfl
@[simp] theorem setSched_irqIn : (s.setSched as).irqIn = s.irqIn := rfl
@[simp] theorem setSched_fgIn : (s.setSched as).fgIn = s.fgIn := rfl
@[simp] theorem setSched_resp : (s.setSched as).resp = s.resp := rfl
@[simp] theorem setSched_driven : (s.setSched as).driven = s.driven := rfl
@[simp] theorem setSched_rxCalls : (s.setSched as).rxCalls = s.rxCalls := rfl
@[simp] theorem setSched_txCalls : (s.setSched as).txCalls = s.txCalls := rfl
@[simp] theorem setSched_freeCtr : (s.setSched as).freeCtr = s.freeCtr := rfl
@[simp] theorem setSched_framer (m : Nat) : (s.setSched as).framer m = s.framer m := rfl
end setSchedFields

section respondFields
variable (r : Response)
@[simp] theorem respond_params : (s.respond r).params = s.params := rfl
@[simp] theorem respond_fifo : (s.respond r).fifo = s.fifo := rfl
@[simp] theorem respond_dec : (s.respond r).dec = s.dec := rfl
@[simp] theorem respond_phy : (s.respond r).phy = s.phy := rfl
@[simp] theorem respond_instanceActive : (s.respond r).instanceActive = s.instanceActive := rfl
@[simp] theorem respond_framers : (s.respond r).framers = s.framers := rfl
@[simp] theorem respond_fg : (s.respond r).fg = s.fg := rfl
@[simp] theorem respond_sched : (s.respond r).sched = s.sched := rfl
@[simp] theorem respond_irqIn : (s.respond r).irqIn = s.irqIn := rfl
@[simp] theorem respond_fgIn : (s.respond r).fgIn = s.fgIn := rfl
@[simp] theorem respond_resp : (s.respond r).resp = r := rfl
@[simp] theorem respond_driven : (s.respond r).driven = s.driven := rfl
@[simp] theorem respond_rxCalls : (s.respond r).rxCalls = s.rxCalls := rfl
@[simp] theorem respond_txCalls : (s.respond r).txCalls = s.txCalls := rfl
@[simp] theorem respond_freeCtr : (s.respond r).freeCtr = s.freeCtr := rfl
@[simp] theorem respond_framer (m : Nat) : (s.respond r).framer m = s.framer m := rfl
end respondFields

section noteDrivenFields
variable (b : Bool)
@[simp] theorem noteDriven_params : (s.noteDriven b).params = s.params := rfl
@[simp] theorem noteDriven_fifo : (s.noteDriven b).fifo = s.fifo := rfl
@[simp] theorem noteDriven_dec : (s.noteDriven b).dec = s.dec := rfl
@[simp] theorem noteDriven_phy : (s.noteDriven b).phy = s.phy := rfl
@[simp] theorem noteDriven_instanceActive : (s.noteDriven b).instanceActive = s.instanceActive := rfl
@[simp] theorem noteDriven_framers : (s.noteDriven b).framers = s.framers := rfl
@[simp] theorem noteDriven_fg : (s.noteDriven b).fg = s.fg := rfl
@[simp] theorem noteDriven_sched : (s.noteDriven b).sched = s.sched := rfl
@[simp] theorem noteDriven_irqIn : (s.noteDriven b).irqIn = s.irqIn := rfl
@[simp] theorem noteDriven_fgIn : (s.noteDriven b).fgIn = s.fgIn := rfl
@[simp] theorem noteDriven_resp : (s.noteDriven b).resp = s.resp := rfl
@[simp] theorem noteDriven_driven : (s.noteDriven b).driven = s.driven ++ [b] := rfl
@[simp] theorem noteDriven_rxCalls : (s.noteDriven b).rxCalls = s.rxCalls := rfl
@[simp] theorem noteDriven_txCalls : (s.noteDriven b).txCalls = s.txCalls := rfl
@[simp] theorem noteDriven_freeCtr : (s.noteDriven b).freeCtr = s.freeCtr := rfl
@[simp] theorem noteDriven_framer (m : Nat) : (s.noteDriven b).framer m = s.framer m := rfl
end noteDrivenFields

section noteRxCallFields
variable (c : RxCall)
@[simp] theorem noteRxCall_params : (s.noteRxCall c).params = s.params := rfl
@[simp] theorem noteRxCall_fifo : (s.noteRxCall c).fifo = s.fifo := rfl
@[simp] theorem noteRxCall_dec : (s.noteRxCall c).dec = s.dec := rfl
@[simp] theorem noteRxCall_phy : (s.noteRxCall c).phy = s.phy := rfl
@[simp] theorem noteRxCall_instanceActive : (s.noteRxCall c).instanceActive = s.instanceActive := rfl
@[simp] theorem noteRxCall_framers : (s.noteRxCall c).framers = s.framers := rfl
@[simp] theorem noteRxCall_fg : (s.noteRxCall c).fg = s.fg := rfl
@[simp] theorem noteRxCall_sched : (s.noteRxCall c).sched = s.sched := rfl
@[simp] theorem noteRxCall_irqIn : (s.noteRxCall c).irqIn = s.irqIn := rfl
@[simp] theorem noteRxCall_fgIn : (s.noteRxCall c).fgIn = s.fgIn := rfl
@[simp] theorem noteRxCall_resp : (s.noteRxCall c).resp = s.resp := rfl
@[simp] theorem noteRxCall_driven : (s.noteRxCall c).driven = s.driven := rfl
@[simp] theorem noteRxCall_rxCalls : (s.noteRxCall c).rxCalls = s.rxCalls ++ [c] := rfl
@[simp] theorem noteRxCall_txCalls : (s.noteRxCall c).txCalls = s.txCalls := rfl
@[simp] theorem noteRxCall_freeCtr : (s.noteRxCall c).freeCtr = s.freeCtr := rfl
@[simp] theorem noteRxCall_framer (m : Nat) : (s.noteRxCall c).framer m = s.framer m := rfl
end noteRxCallFields

section noteTxCallFields
variable (c : TxCall)
@[simp] theorem noteTxCall_params : (s.noteTxCall c).params = s.params := rfl
@[simp] theorem noteTxCall_fifo : (s.noteTxCall c).fifo = s.fifo := rfl
@[simp] theorem noteTxCall_dec : (s.noteTxCall c).dec = s.dec := rfl
@[simp] theorem noteTxCall_phy : (s.noteTxCall c).phy = s.phy := rfl
@[simp] theorem noteTxCall_instanceActive : (s.noteTxCall c).instanceActive = s.instanceActive := rfl
@[simp] theorem noteTxCall_framers : (s.noteTxCall c).framers = s.framers := rfl
@[simp] theorem noteTxCall_fg : (s.noteTxCall c).fg = s.fg := rfl
@[simp] theorem noteTxCall_sched : (s.noteTxCall c).sched = s.sched := rfl
@[simp] theorem noteTxCall_irqIn : (s.noteTxCall c).irqIn = s.irqIn := rfl
@[simp] theorem noteTxCall_fgIn : (s.noteTxCall c).fgIn = s.fgIn := rfl
@[simp] theorem noteTxCall_resp : (s.noteTxCall c).resp = s.resp := rfl
@[simp] theorem noteTxCall_driven : (s.noteTxCall c).driven = s.driven := rfl
@[simp] theorem noteTxCall_rxCalls : (s.noteTxCall c).rxCalls = s.rxCalls := rfl
@[simp] theorem noteTxCall_txCalls : (s.noteTxCall c).txCalls = s.txCalls ++ [c] := rfl
@[simp] theorem noteTxCall_freeCtr : (s.noteTxCall c).freeCtr = s.freeCtr := rfl
@[simp] theorem noteTxCall_framer (m : Nat) : (s.noteTxCall c).framer m = s.framer m := rfl
end noteTxCallFields

section drawFreeFields
@[simp] theorem drawFree_params : s.drawFree.params = s.params := rfl
@[simp] theorem drawFree_fifo : s.drawFree.fifo = s.fifo := rfl
@[simp] theorem drawFree_dec : s.drawFree.dec = s.dec := rfl
@[simp] theorem drawFree_phy : s.drawFree.phy = s.phy := rfl
@[simp] theorem drawFree_instanceActive : s.drawFree.instanceActive = s.instanceActive := rfl
@[simp] theorem drawFree_framers : s.drawFree.framers = s.framers := rfl
@[simp] theorem drawFree_fg : s.drawFree.fg = s.fg := rfl
@[simp] theorem drawFree_sched : s.drawFree.sched = s.sched := rfl
@[simp] theorem drawFree_irqIn : s.drawFree.irqIn = s.irqIn := rfl
@[simp] theorem drawFree_fgIn : s.drawFree.fgIn = s.fgIn := rfl
@[simp] theorem drawFree_resp : s.drawFree.resp = s.resp := rfl
@[simp] theorem drawFree_driven : s.drawFree.driven = s.driven := rfl
@[simp] theorem drawFree_rxCalls : s.drawFree.rxCalls = s.rxCalls := rfl
@[simp] theorem drawFree_txCalls : s.drawFree.txCalls = s.txCalls := rfl
@[simp] theorem drawFree_freeCtr : s.drawFree.freeCtr = s.freeCtr + 1 := rfl
@[simp] theorem drawFree_framer (m : Nat) : s.drawFree.framer m = s.framer m := rfl
end drawFreeFields

/-- The stack written holds what was written, and every other stack what it held. -/
theorem framerPut_get (n m : Nat) (k : Framer) (ks : List Framer) :
    (framerPut n k ks)[m]?.getD Framer.unconstructed =
      if m = n then k else ks[m]?.getD Framer.unconstructed := by
  induction n generalizing m ks with
  | zero => cases ks <;> cases m <;> simp [framerPut]
  | succ n ih => cases ks <;> cases m <;> simp [framerPut, ih]

@[simp] theorem setFramer_framer (n m : Nat) (k : Framer) :
    (s.setFramer n k).framer m = if m = n then k else s.framer m := framerPut_get n m k s.framers

/-- What holds of a stack before its construction and of all that are written holds of all. -/
theorem framerPut_all {p : Framer → Bool} {n : Nat} {k : Framer} {ks : List Framer}
    (hu : p Framer.unconstructed = true) (hk : p k = true) (h : ks.all p = true) :
    (framerPut n k ks).all p = true := by
  induction n generalizing ks with
  | zero => cases ks <;> simp_all [framerPut]
  | succ n ih =>
    cases ks with
    | nil => simp [framerPut, hu, ih (ks := []) rfl]
    | cons k' ks =>
      simp only [List.all_cons, Bool.and_eq_true] at h
      simp [framerPut, h.1, ih h.2]

/-- What holds of every framer listed, and before construction, holds of the framer of every stack. -/
theorem framer_of_all {p : Framer → Bool} (hu : p Framer.unconstructed = true)
    (h : s.framers.all p = true) (n : Nat) : p (s.framer n) = true := by
  unfold State.framer
  rcases Nat.lt_or_ge n s.framers.length with hn | hn
  · simp only [List.getElem?_eq_getElem hn, Option.getD_some]
    exact List.all_eq_true.mp h _ (List.getElem_mem hn)
  · simpa [List.getElem?_eq_none hn] using hu

variable (p : Phy) (flags : Byte) (st : Status)

@[simp] theorem phyToIdle_busState : (phyToIdle p).busState = .idle := rfl
@[simp] theorem phyToIdle_timerRunning : (phyToIdle p).timerRunning = false := rfl
@[simp] theorem phyToIdle_edgeIrqEnabled : (phyToIdle p).edgeIrqEnabled = true := rfl
@[simp] theorem phyToIdle_edgePending : (phyToIdle p).edgePending = p.edgePending := rfl
@[simp] theorem phyToIdle_txEnabled : (phyToIdle p).txEnabled = p.txEnabled := rfl
@[simp] theorem phyToIdle_rstLine : (phyToIdle p).rstLine = p.rstLine := rfl
@[simp] theorem phyToIdle_txbuf : (phyToIdle p).txbuf = p.txbuf := rfl
@[simp] theorem phyToIdle_txLen : (phyToIdle p).txLen = p.txLen := rfl
@[simp] theorem phyToIdle_txByteCur : (phyToIdle p).txByteCur = p.txByteCur := rfl
@[simp] theorem phyToIdle_txBitCur : (phyToIdle p).txBitCur = p.txBitCur := rfl
@[simp] theorem phyToIdle_collate : (phyToIdle p).collate = p.collate := rfl
@[simp] theorem phyToIdle_lastTxBit : (phyToIdle p).lastTxBit = p.lastTxBit := rfl
@[simp] theorem phyToIdle_logStart : (phyToIdle p).logStart = p.logStart := rfl
@[simp] theorem phyToIdle_logParity : (phyToIdle p).logParity = p.logParity := rfl
@[simp] theorem phyToIdle_logStop : (phyToIdle p).logStop = p.logStop := rfl
@[simp] theorem phyToIdle_logOffduty : (phyToIdle p).logOffduty = p.logOffduty := rfl
@[simp] theorem phyToIdle_logOverflow : (phyToIdle p).logOverflow = p.logOverflow := rfl
@[simp] theorem phyToIdle_logReentrant : (phyToIdle p).logReentrant = p.logReentrant := rfl
@[simp] theorem phyToIdle_din : (phyToIdle p).din = p.din := rfl
@[simp] theorem phyToIdle_tickPeriod : (phyToIdle p).tickPeriod = p.tickPeriod := rfl
@[simp] theorem phyToIdle_centerOffset : (phyToIdle p).centerOffset = p.centerOffset := rfl
@[simp] theorem phyToIdle_timerLoad : (phyToIdle p).timerLoad = p.timerLoad := rfl

@[simp] theorem phyToRx_busState : (phyToRx p).busState = .rx := rfl
@[simp] theorem phyToRx_timerRunning : (phyToRx p).timerRunning = true := rfl
@[simp] theorem phyToRx_edgeIrqEnabled : (phyToRx p).edgeIrqEnabled = false := rfl
@[simp] theorem phyToRx_edgePending : (phyToRx p).edgePending = p.edgePending := rfl
@[simp] theorem phyToRx_txEnabled : (phyToRx p).txEnabled = p.txEnabled := rfl
@[simp] theorem phyToRx_rstLine : (phyToRx p).rstLine = p.rstLine := rfl
@[simp] theorem phyToRx_txbuf : (phyToRx p).txbuf = p.txbuf := rfl
@[simp] theorem phyToRx_txLen : (phyToRx p).txLen = p.txLen := rfl
@[simp] theorem phyToRx_txByteCur : (phyToRx p).txByteCur = p.txByteCur := rfl
@[simp] theorem phyToRx_txBitCur : (phyToRx p).txBitCur = p.txBitCur := rfl
@[simp] theorem phyToRx_collate : (phyToRx p).collate = p.collate := rfl
@[simp] theorem phyToRx_lastTxBit : (phyToRx p).lastTxBit = p.lastTxBit := rfl
@[simp] theorem phyToRx_logStart : (phyToRx p).logStart = p.logStart := rfl
@[simp] theorem phyToRx_logParity : (phyToRx p).logParity = p.logParity := rfl
@[simp] theorem phyToRx_logStop : (phyToRx p).logStop = p.logStop := rfl
@[simp] theorem phyToRx_logOffduty : (phyToRx p).logOffduty = p.logOffduty := rfl
@[simp] theorem phyToRx_logOverflow : (phyToRx p).logOverflow = p.logOverflow := rfl
@[simp] theorem phyToRx_logReentrant : (phyToRx p).logReentrant = p.logReentrant := rfl
@[simp] theorem phyToRx_din : (phyToRx p).din = p.din := rfl
@[simp] theorem phyToRx_tickPeriod : (phyToRx p).tickPeriod = p.tickPeriod := rfl
@[simp] theorem phyToRx_centerOffset : (phyToRx p).centerOffset = p.centerOffset := rfl
@[simp] theorem phyToRx_timerLoad : (phyToRx p).timerLoad = p.centerOffset := rfl

@[simp] theorem phyDrive_busState : (phyDrive p).busState = p.busState := rfl
@[simp] theorem phyDrive_timerRunning : (phyDrive p).timerRunning = p.timerRunning := rfl
@[simp] theorem phyDrive_edgeIrqEnabled : (phyDrive p).edgeIrqEnabled = p.edgeIrqEnabled := rfl
@[simp] theorem phyDrive_edgePending : (phyDrive p).edgePending = p.edgePending := rfl
@[simp] theorem phyDrive_txEnabled : (phyDrive p).txEnabled = p.txEnabled := rfl
@[simp] theorem phyDrive_rstLine : (phyDrive p).rstLine = p.rstLine := rfl
@[simp] theorem phyDrive_txbuf : (phyDrive p).txbuf = p.txbuf := rfl
@[simp] theorem phyDrive_txLen : (phyDrive p).txLen = p.txLen := rfl
@[simp] theorem phyDrive_txByteCur : (phyDrive p).txByteCur = p.txByteCur := rfl
@[simp] theorem phyDrive_txBitCur : (phyDrive p).txBitCur = p.txBitCur := rfl
@[simp] theorem phyDrive_collate : (phyDrive p).collate = true := rfl
@[simp] theorem phyDrive_lastTxBit : (phyDrive p).lastTxBit = nextTxBit p := rfl
@[simp] theorem phyDrive_logStart : (phyDrive p).logStart = p.logStart := rfl
@[simp] theorem phyDrive_logParity : (phyDrive p).logParity = p.logParity := rfl
@[simp] theorem phyDrive_logStop : (phyDrive p).logStop = p.logStop := rfl
@[simp] theorem phyDrive_logOffduty : (phyDrive p).logOffduty = p.logOffduty := rfl
@[simp] theorem phyDrive_logOverflow : (phyDrive p).logOverflow = p.logOverflow := rfl
@[simp] theorem phyDrive_logReentrant : (phyDrive p).logReentrant = p.logReentrant := rfl
@[simp] theorem phyDrive_din : (phyDrive p).din = nextTxBit p := rfl
@[simp] theorem phyDrive_tickPeriod : (phyDrive p).tickPeriod = p.tickPeriod := rfl
@[simp] theorem phyDrive_centerOffset : (phyDrive p).centerOffset = p.centerOffset := rfl
@[simp] theorem phyDrive_timerLoad : (phyDrive p).timerLoad = p.timerLoad := rfl

@[simp] theorem phyCountErrors_busState : (phyCountErrors flags p).busState = p.busState := rfl
@[simp] theorem phyCountErrors_timerRunning : (phyCountErrors flags p).timerRunning = p.timerRunning := rfl
@[simp] theorem phyCountErrors_edgeIrqEnabled : (phyCountErrors flags p).edgeIrqEnabled = p.edgeIrqEnabled := rfl
@[simp] theorem phyCountErrors_edgePending : (phyCountErrors flags p).edgePending = p.edgePending := rfl
@[simp] theorem phyCountErrors_txEnabled : (phyCountErrors flags p).txEnabled = p.txEnabled := rfl
@[simp] theorem phyCountErrors_rstLine : (phyCountErrors flags p).rstLine = p.rstLine := rfl
@[simp] theorem phyCountErrors_txbuf : (phyCountErrors flags p).txbuf = p.txbuf := rfl
@[simp] theorem phyCountErrors_txLen : (phyCountErrors flags p).txLen = p.txLen := rfl
@[simp] theorem phyCountErrors_txByteCur : (phyCountErrors flags p).txByteCur = p.txByteCur := rfl
@[simp] theorem phyCountErrors_txBitCur : (phyCountErrors flags p).txBitCur = p.txBitCur := rfl
@[simp] theorem phyCountErrors_collate : (phyCountErrors flags p).collate = p.collate := rfl
@[simp] theorem phyCountErrors_lastTxBit : (phyCountErrors flags p).lastTxBit = p.lastTxBit := rfl
@[simp] theorem phyCountErrors_logStart : (phyCountErrors flags p).logStart = countIf (flags.getLsbD 0) p.logStart := rfl
@[simp] theorem phyCountErrors_logParity : (phyCountErrors flags p).logParity = countIf (flags.getLsbD 1) p.logParity := rfl
@[simp] theorem phyCountErrors_logStop : (phyCountErrors flags p).logStop = countIf (flags.getLsbD 2) p.logStop := rfl
@[simp] theorem phyCountErrors_logOffduty : (phyCountErrors flags p).logOffduty = countIf (flags.getLsbD 3) p.logOffduty := rfl
@[simp] theorem phyCountErrors_logOverflow : (phyCountErrors flags p).logOverflow = p.logOverflow := rfl
@[simp] theorem phyCountErrors_logReentrant : (phyCountErrors flags p).logReentrant = p.logReentrant := rfl
@[simp] theorem phyCountErrors_din : (phyCountErrors flags p).din = p.din := rfl
@[simp] theorem phyCountErrors_tickPeriod : (phyCountErrors flags p).tickPeriod = p.tickPeriod := rfl
@[simp] theorem phyCountErrors_centerOffset : (phyCountErrors flags p).centerOffset = p.centerOffset := rfl
@[simp] theorem phyCountErrors_timerLoad : (phyCountErrors flags p).timerLoad = p.timerLoad := rfl

@[simp] theorem phyCountOverflow_busState : (phyCountOverflow st p).busState = p.busState := rfl
@[simp] theorem phyCountOverflow_timerRunning : (phyCountOverflow st p).timerRunning = p.timerRunning := rfl
@[simp] theorem phyCountOverflow_edgeIrqEnabled : (phyCountOverflow st p).edgeIrqEnabled = p.edgeIrqEnabled := rfl
@[simp] theorem phyCountOverflow_edgePending : (phyCountOverflow st p).edgePending = p.edgePending := rfl
@[simp] theorem phyCountOverflow_txEnabled : (phyCountOverflow st p).txEnabled = p.txEnabled := rfl
@[simp] theorem phyCountOverflow_rstLine : (phyCountOverflow st p).rstLine = p.rstLine := rfl
@[simp] theorem phyCountOverflow_txbuf : (phyCountOverflow st p).txbuf = p.txbuf := rfl
@[simp] theorem phyCountOverflow_txLen : (phyCountOverflow st p).txLen = p.txLen := rfl
@[simp] theorem phyCountOverflow_txByteCur : (phyCountOverflow st p).txByteCur = p.txByteCur := rfl
@[simp] theorem phyCountOverflow_txBitCur : (phyCountOverflow st p).txBitCur = p.txBitCur := rfl
@[simp] theorem phyCountOverflow_collate : (phyCountOverflow st p).collate = p.collate := rfl
@[simp] theorem phyCountOverflow_lastTxBit : (phyCountOverflow st p).lastTxBit = p.lastTxBit := rfl
@[simp] theorem phyCountOverflow_logStart : (phyCountOverflow st p).logStart = p.logStart := rfl
@[simp] theorem phyCountOverflow_logParity : (phyCountOverflow st p).logParity = p.logParity := rfl
@[simp] theorem phyCountOverflow_logStop : (phyCountOverflow st p).logStop = p.logStop := rfl
@[simp] theorem phyCountOverflow_logOffduty : (phyCountOverflow st p).logOffduty = p.logOffduty := rfl
@[simp] theorem phyCountOverflow_logOverflow : (phyCountOverflow st p).logOverflow = countIf (st == .bufferFull) p.logOverflow := rfl
@[simp] theorem phyCountOverflow_logReentrant : (phyCountOverflow st p).logReentrant = p.logReentrant := rfl
@[simp] theorem phyCountOverflow_din : (phyCountOverflow st p).din = p.din := rfl
@[simp] theorem phyCountOverflow_tickPeriod : (phyCountOverflow st p).tickPeriod = p.tickPeriod := rfl
@[simp] theorem phyCountOverflow_centerOffset : (phyCountOverflow st p).centerOffset = p.centerOffset := rfl
@[simp] theorem phyCountOverflow_timerLoad : (phyCountOverflow st p).timerLoad = p.timerLoad := rfl

end Sys2Proof.Machine
end

