-- ==== Sys2Proof/Laws/Cells.lean ====
section
/-! SUPPORT. The storage arrays: what a read gives after a write, and that every operation keeps the
canonical form. -/

namespace Sys2Proof.Machine

variable {w : Nat}

/-! ## The canonical form -/

theorem cellsWf_iff (c : Cells w) :
    cellsWf c = true ↔ c.Pairwise (fun a b => a.1 < b.1) ∧ ∀ e ∈ c, e.2 ≠ unlisted w := by
  simp [cellsWf]

@[simp] theorem cellsWf_nil : cellsWf ([] : Cells w) = true := rfl

theorem cellsWf_tail {e : Nat × BitVec w} {c : Cells w} (h : cellsWf (e :: c) = true) :
    cellsWf c = true := by
  rw [cellsWf_iff] at h ⊢
  exact ⟨(List.pairwise_cons.1 h.1).2, fun x hx => h.2 x (List.mem_cons_of_mem _ hx)⟩

theorem mem_cellInsert {i : Nat} {v : BitVec w} {c : Cells w} {e : Nat × BitVec w}
    (h : e ∈ cellInsert i v c) : e = (i, v) ∨ e ∈ c := by
  induction c with
  | nil => simpa [cellInsert] using h
  | cons x c ih =>
    obtain ⟨k, u⟩ := x
    unfold cellInsert at h
    split at h
    · simpa using h
    · split at h
      · rcases List.mem_cons.1 h with h | h
        · exact .inl h
        · exact .inr (List.mem_cons_of_mem _ h)
      · rcases List.mem_cons.1 h with h | h
        · exact .inr (h ▸ List.mem_cons_self)
        · exact (ih h).imp_right (List.mem_cons_of_mem _)

theorem mem_cellRemove {i : Nat} {c : Cells w} {e : Nat × BitVec w} (h : e ∈ cellRemove i c) :
    e ∈ c := by
  induction c with
  | nil => simp [cellRemove] at h
  | cons x c ih =>
    obtain ⟨k, u⟩ := x
    unfold cellRemove at h
    split at h
    · exact List.mem_cons_of_mem _ h
    · rcases List.mem_cons.1 h with h | h
      · exact h ▸ List.mem_cons_self
      · exact List.mem_cons_of_mem _ (ih h)

theorem cellInsert_wf {i : Nat} {v : BitVec w} {c : Cells w} (hv : v ≠ unlisted w)
    (h : cellsWf c = true) : cellsWf (cellInsert i v c) = true := by
  induction c with
  | nil => rw [cellsWf_iff]; simp [cellInsert, hv]
  | cons x c ih =>
    have hc := ih (cellsWf_tail h)
    obtain ⟨k, u⟩ := x
    rw [cellsWf_iff] at h hc ⊢
    obtain ⟨hp, hn⟩ := h
    obtain ⟨hk, hp⟩ := List.pairwise_cons.1 hp
    unfold cellInsert
    split
    · rename_i hik
      refine ⟨List.pairwise_cons.2 ⟨?_, List.pairwise_cons.2 ⟨hk, hp⟩⟩, ?_⟩
      · intro e he
        rcases List.mem_cons.1 he with rfl | he
        · exact hik
        · exact Nat.lt_trans hik (hk e he)
      · simpa [hv] using hn
    · split
      · rename_i hik
        refine ⟨List.pairwise_cons.2 ⟨fun e he => ?_, hp⟩, ?_⟩
        · exact hik ▸ hk e he
        · intro e he
          rcases List.mem_cons.1 he with rfl | he
          · exact hv
          · exact hn e (List.mem_cons_of_mem _ he)
      · refine ⟨List.pairwise_cons.2 ⟨fun e he => ?_, hc.1⟩, ?_⟩
        · rcases mem_cellInsert he with rfl | he
          · omega
          · exact hk e he
        · intro e he
          rcases List.mem_cons.1 he with rfl | he
          · exact hn _ List.mem_cons_self
          · exact hc.2 e he

theorem cellRemove_wf {i : Nat} {c : Cells w} (h : cellsWf c = true) :
    cellsWf (cellRemove i c) = true := by
  induction c with
  | nil => simp [cellRemove]
  | cons x c ih =>
    have hc := ih (cellsWf_tail h)
    have ht := cellsWf_tail h
    obtain ⟨k, u⟩ := x
    unfold cellRemove
    split
    · exact ht
    · rw [cellsWf_iff] at h hc ⊢
      refine ⟨List.pairwise_cons.2 ⟨fun e he => (List.pairwise_cons.1 h.1).1 e (mem_cellRemove he), hc.1⟩, ?_⟩
      intro e he
      rcases List.mem_cons.1 he with rfl | he
      · exact h.2 _ List.mem_cons_self
      · exact hc.2 e he

/-- A write keeps the canonical form. -/
theorem cellWrite_wf {i : Nat} {v : BitVec w} {c : Cells w} (h : cellsWf c = true) :
    cellsWf (cellWrite i v c) = true := by
  unfold cellWrite
  split
  · exact cellRemove_wf h
  · exact cellInsert_wf ‹_› h

/-- A run of writes keeps the canonical form. -/
theorem cellWriteAll_wf {i : Nat} {vs : List (BitVec w)} {c : Cells w} (h : cellsWf c = true) :
    cellsWf (cellWriteAll i vs c) = true := by
  induction vs generalizing i c with
  | nil => exact h
  | cons v vs ih => exact ih (cellWrite_wf h)

/-! ## Reads after writes -/

/-- An index below every listed one reads as unlisted. -/
theorem cellRead_of_lt {i : Nat} {c : Cells w} (h : ∀ e ∈ c, i < e.1) :
    cellRead c i = unlisted w := by
  induction c with
  | nil => rfl
  | cons x c ih =>
    obtain ⟨k, u⟩ := x
    have hk : i < k := h (k, u) List.mem_cons_self
    rw [cellRead, if_neg (by omega)]
    exact ih fun e he => h e (List.mem_cons_of_mem _ he)

theorem cellRead_cellInsert (i a : Nat) (v : BitVec w) (c : Cells w) :
    cellRead (cellInsert i v c) a = if i = a then v else cellRead c a := by
  induction c with
  | nil => simp [cellInsert, cellRead]
  | cons x c ih =>
    obtain ⟨k, u⟩ := x
    unfold cellInsert
    split
    · rw [cellRead]
    · split
      · rename_i hik
        subst hik
        by_cases h : i = a <;> simp [cellRead, h]
      · rename_i hik
        simp only [cellRead, ih]
        by_cases h : k = a
        · subst h; simp [hik]
        · simp [h]

theorem cellRead_cellRemove {i a : Nat} {c : Cells w} (h : cellsWf c = true) :
    cellRead (cellRemove i c) a = if i = a then unlisted w else cellRead c a := by
  induction c with
  | nil => simp [cellRemove, cellRead]
  | cons x c ih =>
    have hc := ih (cellsWf_tail h)
    obtain ⟨k, u⟩ := x
    have hk := (List.pairwise_cons.1 ((cellsWf_iff _).1 h).1).1
    unfold cellRemove
    split
    · rename_i hik
      subst hik
      by_cases ha : i = a
      · subst ha
        rw [if_pos rfl]
        exact cellRead_of_lt fun e he => hk e he
      · simp [cellRead, ha]
    · rename_i hik
      simp only [cellRead, hc]
      by_cases ha : k = a
      · subst ha; simp [hik]
      · simp [ha]

/-- What a read gives after a write: the value written there, and what was there before elsewhere. -/
theorem cellRead_cellWrite {i a : Nat} {v : BitVec w} {c : Cells w} (h : cellsWf c = true) :
    cellRead (cellWrite i v c) a = if i = a then v else cellRead c a := by
  unfold cellWrite
  split
  · rename_i hv
    rw [cellRead_cellRemove h, hv]
  · exact cellRead_cellInsert ..

/-- What a read gives after a run of writes. -/
theorem cellRead_cellWriteAll {i a : Nat} {vs : List (BitVec w)} {c : Cells w}
    (h : cellsWf c = true) :
    cellRead (cellWriteAll i vs c) a =
      if i ≤ a then (vs[a - i]?).getD (cellRead c a) else cellRead c a := by
  induction vs generalizing i c with
  | nil => simp [cellWriteAll]
  | cons v vs ih =>
    rw [cellWriteAll, ih (cellWrite_wf h), cellRead_cellWrite h]
    rcases Nat.lt_trichotomy a i with ha | ha | ha
    · simp [show ¬ i + 1 ≤ a by omega, show ¬ i ≤ a by omega, show i ≠ a by omega]
    · subst ha
      simp [show ¬ a + 1 ≤ a by omega]
    · obtain ⟨d, rfl⟩ : ∃ d, a = i + 1 + d := ⟨a - (i + 1), by omega⟩
      have h1 : i + 1 + d - i = d + 1 := by omega
      simp [show i + 1 ≤ i + 1 + d by omega, show i ≤ i + 1 + d by omega, h1,
        show i ≠ i + 1 + d by omega, show i + 1 + d - (i + 1) = d by omega]

/-- A run of writes leaves every index outside it as it was. -/
theorem cellRead_cellWriteAll_outside {i a : Nat} {vs : List (BitVec w)} {c : Cells w}
    (h : cellsWf c = true) (ha : a < i ∨ i + vs.length ≤ a) :
    cellRead (cellWriteAll i vs c) a = cellRead c a := by
  rw [cellRead_cellWriteAll h]
  split
  · rw [List.getElem?_eq_none (by omega)]; rfl
  · rfl

/-- A run of writes, read back. -/
theorem cellReadAll_cellWriteAll {i : Nat} {vs : List (BitVec w)} {c : Cells w}
    (h : cellsWf c = true) : cellReadAll (cellWriteAll i vs c) i vs.length = vs := by
  apply List.ext_getElem?
  intro j
  simp only [cellReadAll, List.getElem?_map]
  by_cases hj : j < vs.length
  · rw [List.getElem?_range hj, Option.map_some, cellRead_cellWriteAll h]
    simp [hj]
  · rw [List.getElem?_eq_none (by simpa using hj), List.getElem?_eq_none (by omega)]; rfl

/-- The three arrays before any initialisation are in canonical form. -/
theorem reset_memory_wf : Memory.wf State.reset = true := rfl

end Sys2Proof.Machine
end

