-- ==== Sys2Proof/Laws/Dec.lean ====
section
/-! SUPPORT. What the decoder's shared operations can do, each said once (spec/41_rx_decoder.md R151 to R156). -/

namespace Sys2Proof.Machine

variable {d d' : Decoder} {r : DecResult} {b : Bool}

/-- Everything `DEC.START` can do. -/
theorem decStart_cases (h : decStart d = (r, d')) :
    (d.ongoing = true ∧ r = .reject ∧ d' = d) ∨
    (d.ongoing = false ∧ r = .accept ∧ d' = { Decoder.zero with ongoing := true }) := by
  unfold decStart at h
  split_ifs at h with h1 <;> obtain ⟨rfl, rfl⟩ := Prod.mk.inj h
  · exact .inl ⟨h1, rfl, rfl⟩
  · exact .inr ⟨by simpa using h1, rfl, rfl⟩

/-- Everything `DEC.EDGE` can do. -/
theorem decEdge_cases (h : decEdge d = (r, d')) :
    ((d.ongoing = false ∨ d.expectingEdge = false) ∧ r = .reject ∧ d' = d) ∨
    (d.ongoing = true ∧ d.expectingEdge = true ∧ r = .accept ∧
      d' = { d with expectingEdge := false }) := by
  unfold decEdge at h
  split_ifs at h with h1 <;> obtain ⟨rfl, rfl⟩ := Prod.mk.inj h
  · exact .inl ⟨by simpa using h1, rfl, rfl⟩
  · simp only [Bool.or_eq_true, Bool.not_eq_true', not_or, Bool.not_eq_false] at h1
    exact .inr ⟨h1.1, h1.2, rfl, rfl⟩

/-- Everything `DEC.SAMPLE` can do. -/
theorem decSample_cases (h : decSample b d = (r, d')) :
    ((d.ongoing = false ∨ d.expectingEdge = true) ∧ r = .reject ∧ d' = d) ∨
    (d.ongoing = true ∧ d.expectingEdge = false ∧ d.totalCnt = 21 ∧ d' = Decoder.zero ∧
      r = ⟨true, true, (decAbsorb b d).data, (decAbsorb b d).errorFlags⟩) ∨
    (d.ongoing = true ∧ d.expectingEdge = false ∧ d.totalCnt ≠ 21 ∧ r = .accept ∧
      d' = decAdvance (decAbsorb b d)) := by
  unfold decSample at h
  split_ifs at h with h1 h2 <;> obtain ⟨rfl, rfl⟩ := Prod.mk.inj h
  · exact .inl ⟨by simpa using h1, rfl, rfl⟩
  · simp only [Bool.or_eq_true, Bool.not_eq_true', not_or, Bool.not_eq_true, Bool.not_eq_false] at h1
    exact .inr (.inl ⟨h1.1, h1.2, h2, rfl, rfl⟩)
  · simp only [Bool.or_eq_true, Bool.not_eq_true', not_or, Bool.not_eq_true, Bool.not_eq_false] at h1
    exact .inr (.inr ⟨h1.1, h1.2, h2, rfl, rfl⟩)

/-! ## What a sample leaves alone -/

@[simp] theorem decLogical_ongoing (k : Nat) : (decLogical b k d).ongoing = d.ongoing := by
  unfold decLogical; split_ifs <;> rfl

@[simp] theorem decLogical_expectingEdge (k : Nat) :
    (decLogical b k d).expectingEdge = d.expectingEdge := by
  unfold decLogical; split_ifs <;> rfl

@[simp] theorem decLogical_totalCnt (k : Nat) : (decLogical b k d).totalCnt = d.totalCnt := by
  unfold decLogical; split_ifs <;> rfl

@[simp] theorem decAbsorb_ongoing : (decAbsorb b d).ongoing = d.ongoing := by
  unfold decAbsorb; split_ifs <;> simp

@[simp] theorem decAbsorb_expectingEdge : (decAbsorb b d).expectingEdge = d.expectingEdge := by
  unfold decAbsorb; split_ifs <;> simp

@[simp] theorem decAbsorb_totalCnt : (decAbsorb b d).totalCnt = d.totalCnt := by
  unfold decAbsorb; split_ifs <;> simp

/-- A stuffing sample is checked and not accumulated. -/
theorem decAbsorb_stuffing (h : d.expectingOffduty = true) :
    decAbsorb b d = { d with errorFlags := raiseFlag (!b) flagOffduty d.errorFlags } := by
  simp [decAbsorb, h]

/-- A logical sample is treated by its position. -/
theorem decAbsorb_logical (h : d.expectingOffduty = false) :
    decAbsorb b d = decLogical b (d.totalCnt.toNat / 2) d := by
  simp [decAbsorb, h]

/-- Flags are only ever set within a frame (R153). -/
theorem raiseFlag_keeps {failed : Bool} {mask flags : Byte} {i : Nat} (h : flags.getLsbD i = true) :
    (raiseFlag failed mask flags).getLsbD i = true := by
  unfold raiseFlag; split_ifs <;> simp [h]

/-- A tick in Rx feeds one decoder event. -/
theorem decFeedTick_cases (l : Bool) (d : Decoder) :
    (decWant d = true ∧ decFeedTick l d = decSample l d) ∨
    (decWant d = false ∧ decFeedTick l d = decEdge d) := by
  unfold decFeedTick
  cases h : decWant d
  · exact .inr ⟨rfl, by simp⟩
  · exact .inl ⟨rfl, by simp⟩

end Sys2Proof.Machine
end

