-- ==== Sys2Proof/Laws/Encoding.lean ====
section
/-! SUPPORT. The fields of an encoded operation word, read back, and what the two argument forms accept
(spec/30_encoding.md R101, R103). -/

namespace Sys2Proof

/-- Nothing stands above the 16 bits of an operation word. -/
theorem opWord_above (op arg : Byte) : ((opWord op arg).setWidth 32).extractLsb' 16 16 = 0 := by
  apply BitVec.eq_of_toNat_eq
  have := (opWord op arg).isLt
  simp [Nat.shiftRight_eq_div_pow]
  omega

/-- The `op` byte of an operation word. -/
theorem opWord_op (op arg : Byte) : ((opWord op arg).setWidth 32).extractLsb' 8 8 = op := by
  apply BitVec.eq_of_getLsbD_eq
  intro i hi
  simp only [BitVec.getLsbD_extractLsb', opWord, BitVec.getLsbD_setWidth, BitVec.getLsbD_append]
  simp [hi]
  omega

/-- The `arg` byte of an operation word. -/
theorem opWord_arg (op arg : Byte) : ((opWord op arg).setWidth 32).extractLsb' 0 8 = arg := by
  apply BitVec.eq_of_getLsbD_eq
  intro i hi
  simp only [BitVec.getLsbD_extractLsb', opWord, BitVec.getLsbD_setWidth, BitVec.getLsbD_append]
  simp [hi]
  omega

/-- An operation without `arg` is read exactly when every bit of `arg` is 0. -/
theorem withoutArg_ok {op arg : Byte} {i j : Instr} :
    withoutArg op arg i = .ok j ↔ arg = 0 ∧ i = j := by
  unfold withoutArg
  split_ifs with h
  · simp [h]
  · exact ⟨(fun hh => nomatch hh), fun hh => absurd hh.1 h⟩

/-- An operation of one argument bit is read exactly when the other bits of `arg` are 0. -/
theorem withBitArg_ok {op arg : Byte} {f : Bool → Instr} {j : Instr} :
    withBitArg op arg f = .ok j ↔ arg = bitOf 8 (arg.getLsbD 0) ∧ f (arg.getLsbD 0) = j := by
  have h : ∀ a : Byte, a.extractLsb' 1 7 = 0 ↔ a = bitOf 8 (a.getLsbD 0) := by decide
  unfold withBitArg
  rw [← h]
  split_ifs with h0
  · simp [h0]
  · exact ⟨(fun hh => nomatch hh), fun hh => absurd hh.1 h0⟩

/-- Everything the decoder can read: the word names the operation, the operands are the operation's, and they
are well formed. -/
theorem decode_ok {c : Code} {i : Instr} :
    decode c = .ok i ↔ decodeWord c = .ok i ∧ c.operands = i.operands ∧ i.wf = true := by
  unfold decode
  cases decodeWord c with
  | error e => simp
  | ok j =>
    by_cases h1 : c.operands = j.operands
    · by_cases h2 : j.wf = true
      · simp only [h1, h2, ne_eq, not_true, if_false, if_true, Except.ok.injEq]
        exact ⟨fun h => h ▸ ⟨rfl, rfl, h2⟩, fun h => h.1⟩
      · simp only [h1, h2, ne_eq, not_true, if_false, Except.ok.injEq]
        exact ⟨(fun h => nomatch h), fun h => absurd (h.1 ▸ h.2.2) h2⟩
    · simp only [ne_eq, h1, not_false_eq_true, if_true, Except.ok.injEq]
      exact ⟨(fun h => nomatch h), fun h => absurd (h.1 ▸ h.2.1) h1⟩

end Sys2Proof
end

