-- ==== Sys2Proof/Laws/Fifo.lean ====
section
/-! SUPPORT. What the FIFO's shared operations can do, each said once (spec/10_state.md R23, spec/40_fifo.md
R131 to R133). -/

namespace Sys2Proof.Machine

theorem fifoNext_le (f : Fifo) (i : Nat) : fifoNext f i ≤ f.cap :=
  Nat.lt_succ_iff.1 (Nat.mod_lt _ (Nat.succ_pos _))

theorem fifoLength_le (f : Fifo) : fifoLength f ≤ f.cap :=
  Nat.lt_succ_iff.1 (Nat.mod_lt _ (Nat.succ_pos _))

/-- The length is the one number in range that leads from `F.rd` to `F.wr` (10_state R23). -/
theorem fifoLength_unique {f : Fifo} {len : Nat} (hr : f.rd ≤ f.cap) (hl : len ≤ f.cap)
    (h : (f.rd + len) % (f.cap + 1) = f.wr) : fifoLength f = len := by
  unfold fifoLength
  rw [Nat.mod_eq_of_lt (show f.rd < f.cap + 1 by omega), ← h]
  rcases Nat.lt_or_ge (f.rd + len) (f.cap + 1) with h1 | h1
  · rw [Nat.mod_eq_of_lt h1, show f.rd + len + (f.cap + 1) - f.rd = len + (f.cap + 1) by omega,
      Nat.add_mod_right, Nat.mod_eq_of_lt (by omega)]
  · rw [Nat.mod_eq_sub_mod h1, Nat.mod_eq_of_lt (show f.rd + len - (f.cap + 1) < f.cap + 1 by omega),
      Nat.mod_eq_of_lt (by omega)]
    omega

theorem rd_add_fifoLength {f : Fifo} (hr : f.rd ≤ f.cap) (hw : f.wr ≤ f.cap) :
    (f.rd + fifoLength f) % (f.cap + 1) = f.wr := by
  rcases Nat.lt_or_ge f.wr f.rd with h | h
  · have e : (f.rd + (f.wr + (f.cap + 1) - f.rd)) % (f.cap + 1) = f.wr := by
      rw [show f.rd + (f.wr + (f.cap + 1) - f.rd) = f.wr + (f.cap + 1) by omega, Nat.add_mod_right,
        Nat.mod_eq_of_lt (by omega)]
    rw [fifoLength_unique hr (by omega) e, e]
  · have e : (f.rd + (f.wr - f.rd)) % (f.cap + 1) = f.wr := by
      rw [show f.rd + (f.wr - f.rd) = f.wr by omega, Nat.mod_eq_of_lt (by omega)]
    rw [fifoLength_unique hr (by omega) e, e]

theorem fifoContents_length (f : Fifo) : (fifoContents f).length = fifoLength f := by
  simp [fifoContents, fifoOldest]

/-- Everything `fifoConstruct` can do. -/
theorem fifoConstruct_cases {c e : Nat} {f g : Fifo} {st : Status}
    (h : fifoConstruct c e f = (st, g)) :
    (st = .badParam ∧ g = f ∧ (c = Config.sizeMax ∨ e = 0 ∨ (c + 1) * e > Config.sizeMax)) ∨
    (st = .ok ∧ g = ⟨c, e, [], 0, 0, true⟩ ∧ c ≠ Config.sizeMax ∧ e ≠ 0 ∧
      (c + 1) * e ≤ Config.sizeMax) := by
  unfold fifoConstruct at h
  split_ifs at h with h1 h2 h3 <;> obtain ⟨rfl, rfl⟩ := Prod.mk.inj h
  · exact .inl ⟨rfl, rfl, .inl h1⟩
  · exact .inl ⟨rfl, rfl, .inr (.inl h2)⟩
  · exact .inl ⟨rfl, rfl, .inr (.inr h3)⟩
  · exact .inr ⟨rfl, rfl, h1, h2, by omega⟩

/-- Everything `fifoPush` can do without a fault. -/
theorem fifoPush_cases {elem : List Byte} {f g : Fifo} {st : Status}
    (h : fifoPush elem f = .ok (st, g)) :
    (fifoNext f f.wr = f.rd ∧ st = .bufferFull ∧ g = f) ∨
    (fifoNext f f.wr ≠ f.rd ∧ f.wr ≤ f.cap ∧ st = .ok ∧
      g = { f with store := cellWriteAll (f.wr * f.esz) elem f.store, wr := fifoNext f f.wr }) := by
  unfold fifoPush at h
  split_ifs at h with h1 h2
  · obtain ⟨rfl, rfl⟩ := Prod.mk.inj (Except.ok.inj h)
    exact .inl ⟨h1, rfl, rfl⟩
  · obtain ⟨rfl, rfl⟩ := Prod.mk.inj (Except.ok.inj h)
    exact .inr ⟨h1, h2, rfl, rfl⟩

/-- With its write index in range a push does not fault. -/
theorem fifoPush_total {elem : List Byte} {f : Fifo} (hw : f.wr ≤ f.cap) :
    ∃ st g, fifoPush elem f = .ok (st, g) := by
  unfold fifoPush
  split_ifs
  · exact ⟨_, _, rfl⟩
  · exact ⟨_, _, rfl⟩

/-- Everything `fifoPop` can do without a fault. -/
theorem fifoPop_cases {f : Fifo} {r : Option (List Byte × Fifo)} (h : fifoPop f = .ok r) :
    (f.rd = f.wr ∧ r = none) ∨
    (f.rd ≠ f.wr ∧ f.rd ≤ f.cap ∧ r = some (fifoSlot f f.rd, { f with rd := fifoNext f f.rd })) := by
  unfold fifoPop at h
  split_ifs at h with h1 h2
  · exact .inl ⟨h1, (Except.ok.inj h).symm⟩
  · exact .inr ⟨h1, h2, (Except.ok.inj h).symm⟩

/-- With its read index in range a pop does not fault. -/
theorem fifoPop_total {f : Fifo} (hr : f.rd ≤ f.cap) : ∃ r, fifoPop f = .ok r := by
  unfold fifoPop
  split_ifs
  · exact ⟨_, rfl⟩
  · exact ⟨_, rfl⟩

/-- A push keeps the canonical form of the storage. -/
theorem fifoPush_wf {elem : List Byte} {f g : Fifo} {st : Status}
    (h : fifoPush elem f = .ok (st, g)) (hf : cellsWf f.store = true) : cellsWf g.store = true := by
  obtain ⟨-, -, rfl⟩ | ⟨-, -, -, rfl⟩ := fifoPush_cases h
  · exact hf
  · exact cellWriteAll_wf hf

/-- A construction leaves the storage empty or as it was. -/
theorem fifoConstruct_wf {c e : Nat} {f : Fifo} (hf : cellsWf f.store = true) :
    cellsWf (fifoConstruct c e f).2.store = true := by
  cases h : fifoConstruct c e f
  obtain ⟨-, rfl, -⟩ | ⟨-, rfl, -⟩ := fifoConstruct_cases h
  · exact hf
  · rfl

end Sys2Proof.Machine
end

