-- ==== Sys2Proof/Laws/Ops.lean ====
section
/-! SUPPORT. What the shared operations of the orchestrator and of the framer can do, each said once: if it
answers a next state, that state is one of these (spec/42_phy_rx.md, spec/43_phy_tx.md,
spec/44_packet_framer.md). -/

namespace Sys2Proof.Machine

variable {s t : State}

/-! ## The receive path -/

/-- Everything an edge can do while the edge interrupt is armed (R173, R178). -/
theorem takeEdge_cases (h : takeEdge s = t) :
    (s.dec.ongoing = false ∧
      t = { s with
        dec := { Decoder.zero with ongoing := true }
        phy := phyToRx { s.phy with edgePending := false } }) ∨
    (s.dec.ongoing = true ∧
      t = { s with
        dec := Decoder.zero
        phy := phyToIdle { s.phy with edgePending := false, logReentrant := s.phy.logReentrant + 1 } }) := by
  subst h
  unfold takeEdge
  cases hd : decStart s.dec with
  | mk r d =>
    obtain ⟨ho, rfl, rfl⟩ | ⟨ho, rfl, rfl⟩ := decStart_cases hd
    · exact .inr ⟨ho, rfl⟩
    · exact .inl ⟨ho, rfl⟩

/-- Everything a push by its operand can do without a fault: of an operand that is one element, that element is pushed;
of another, some element of `F.esz` bytes, and a free value is drawn (40_fifo R132, log entry 8). -/
theorem pushElement_cases {operand : Option (List Byte)} {st : Status}
    (h : pushElement operand s = .ok (st, t)) :
    (∃ elem f, operand = some elem ∧ fifoPush elem s.fifo = .ok (st, f) ∧ t = s.setFifo f) ∨
    (∃ elem f, operand = none ∧ elem.length = s.fifo.esz ∧ fifoPush elem s.fifo = .ok (st, f) ∧
      t = (s.setFifo f).drawFree) := by
  unfold pushElement at h
  split at h
  · split at h <;> cases h
    next hp => exact .inl ⟨_, _, rfl, hp, rfl⟩
  · split at h <;> cases h
    next hp => exact .inr ⟨_, _, rfl, by simp [freeElement], hp, rfl⟩

/-- Everything the completion of a frame can do without a fault or a refusal (R176). -/
theorem completeFrame_cases {r : DecResult} (h : completeFrame r s = .next t) :
    (r.errorFlags = 0 ∧ s.fifo.valid = true ∧
      ∃ st u, pushElement (elementOperand s.fifo.esz r.data []) s = .ok (st, u) ∧
        t = u.setPhy (phyToIdle (phyCountOverflow st s.phy))) ∨
    (r.errorFlags ≠ 0 ∧ t = { s with phy := phyToIdle (phyCountErrors r.errorFlags s.phy) }) := by
  unfold completeFrame at h
  split at h
  · split at h
    · cases h
    · split at h <;> cases h
      next h0 hv _ st u hp => exact .inl ⟨h0, by simpa using hv, st, u, hp, rfl⟩
  · cases h
    next h0 => exact .inr ⟨h0, rfl⟩

/-- Everything a tick in Rx can do without a fault or a refusal (R175). -/
theorem tickRx_cases {l : Bool} (h : tickRx l s = .next t) :
    ((decFeedTick l s.dec).1.finished = true ∧
      completeFrame (decFeedTick l s.dec).1 (s.setDec (decFeedTick l s.dec).2) = .next t) ∨
    ((decFeedTick l s.dec).1.finished = false ∧ t = s.setDec (decFeedTick l s.dec).2) := by
  unfold tickRx at h
  simp only at h
  split at h
  · next hf => exact .inl ⟨hf, h⟩
  · cases h
    next hf => exact .inr ⟨by simpa using hf, rfl⟩

/-! ## The transmit path -/

/-- Everything a tick in Tx can do without a fault (R197). -/
theorem tickTx_cases (h : tickTx s = .next t) :
    (s.phy.collate = true ∧ t = s.setPhy (phyReadBack s.phy)) ∨
    (s.phy.collate = false ∧ s.phy.txByteCur < s.params.txbufCap ∧
      t = (s.setPhy (phyDrive s.phy)).noteDriven (nextTxBit s.phy)) := by
  unfold tickTx at h
  split at h
  · cases h
    next hc => exact .inl ⟨hc, rfl⟩
  · split at h <;> cases h
    next hc hi => exact .inr ⟨by simpa using hc, hi, rfl⟩

/-- Everything the read-back phase can do (R199). -/
theorem phyReadBack_cases (p : Phy) :
    (p.txBitCur.toNat < 21 ∧
      phyReadBack p = { p with collate := false, txBitCur := p.txBitCur + 1 }) ∨
    (21 ≤ p.txBitCur.toNat ∧ p.txByteCur + 1 ≠ p.txLen ∧
      phyReadBack p = { p with collate := false, txBitCur := 0, txByteCur := p.txByteCur + 1 }) ∨
    (21 ≤ p.txBitCur.toNat ∧ p.txByteCur + 1 = p.txLen ∧
      phyReadBack p =
        phyToIdle { p with collate := false, txBitCur := 0, txByteCur := p.txByteCur + 1 }) := by
  unfold phyReadBack
  split
  · next h1 => exact .inl ⟨h1, rfl⟩
  · next h1 =>
    simp only
    split
    · next h2 => exact .inr (.inr ⟨by omega, h2, rfl⟩)
    · next h2 => exact .inr (.inl ⟨by omega, h2, rfl⟩)

/-- When `PHY.WRITE` begins a transmission, its conditions hold (R193). -/
theorem writeCheck_begins {missing : Bool} {len : Nat} (h : writeCheck missing len s = .begins) :
    s.instanceActive = true ∧ missing = false ∧ 1 ≤ len ∧ len ≤ s.params.txbufCap ∧
      s.phy.busState = .idle := by
  unfold writeCheck at h
  split_ifs at h with h1 h2 h3 h4 h5
  exact ⟨by simpa using h1, by simpa using h2, by omega, by omega, by simpa using h5⟩

/-- The statuses that the check step of `PHY.WRITE` returns (R193). -/
theorem writeCheck_returns {missing : Bool} {len : Nat} {st : Status}
    (h : writeCheck missing len s = .returns st) :
    s.instanceActive = true ∧
      ((st = .badParam ∧ (missing = true ∨ s.params.txbufCap < len)) ∨
        (st = .ok ∧ missing = false ∧ len = 0)) := by
  unfold writeCheck at h
  split_ifs at h with h1 h2 h3 h4 h5 <;> cases h
  · exact ⟨by simpa using h1, .inl ⟨rfl, .inl h2⟩⟩
  · exact ⟨by simpa using h1, .inl ⟨rfl, .inr h3⟩⟩
  · exact ⟨by simpa using h1, .inr ⟨rfl, by simpa using h2, h4⟩⟩

/-- The last sample of a formatted word, its stop stuffing bit, is 1 (R190, R202). -/
theorem formatByte_last (b : Byte) : (formatByte b).getLsbD 21 = true := by
  simp [formatByte, fmtwordBits, bitOf]

/-- A word of the buffer once a transmission has begun (R194). -/
theorem beginTransmission_word {bytes : List Byte} (hw : cellsWf s.phy.txbuf = true) (j : Nat) :
    cellRead (beginTransmission bytes s).phy.txbuf j =
      ((bytes[j]?).map formatByte).getD (cellRead s.phy.txbuf j) := by
  simp only [beginTransmission, drawFree_phy, setPhy_phy, cellRead_cellWriteAll hw, Nat.zero_le,
    if_true, Nat.sub_zero, List.getElem?_map]

/-- When the begin step of `PHY.WRITE` answers, its conditions hold and the transmission begins (R194). -/
theorem writeBegin_cases {data : Option (List Byte)} {len : Nat} {inSend : Bool} {fs : List FgFrame}
    (h : writeBegin data len inSend fs s = .next t) :
    s.phy.busState = .idle ∧ 1 ≤ len ∧ len ≤ s.params.txbufCap ∧
      t = ((beginTransmission (bufferBytes s.freeCtr data len) s).setFg (.write inSend :: fs)).respond
        .inProgress := by
  unfold writeBegin at h
  split at h <;> cases h
  next hc => exact ⟨hc.1, hc.2.1, hc.2.2, rfl⟩

/-! ## The framer -/

/-- Everything a delivery can do (R213). -/
theorem deliver_cases {n : Nat} {k : Framer} (h : deliver n k s = t) :
    (∃ cb, k.rxCb = some cb ∧ k.pktDest = k.ownAddr ∧
      t = { s.setFramer n k with
        rxCalls := s.rxCalls ++ [⟨cb, n, framerPacket k⟩]
        fg := .recvCb n :: s.fg
        resp := .inProgress }) ∨
    ((k.rxCb = none ∨ k.pktDest ≠ k.ownAddr) ∧
      t = (s.setFramer n { k with unhandledCnt := k.unhandledCnt + 1 }).respond (.status .ok)) := by
  subst h
  unfold deliver
  split
  · next cb hc =>
    split
    · next hd => exact .inl ⟨cb, hc, hd, rfl⟩
    · next hd => exact .inr ⟨.inr hd, rfl⟩
  · next hc => exact .inr ⟨.inl hc, rfl⟩

/-- A delivery writes one stack, and of it only the counter beyond what it is given. -/
theorem deliver_framer (n : Nat) (k : Framer) (s : State) :
    ∃ c, ∀ m, (deliver n k s).framer m = if m = n then { k with unhandledCnt := c } else s.framer m := by
  obtain ⟨cb, -, -, h⟩ | ⟨-, h⟩ := deliver_cases (s := s) (n := n) (k := k) rfl
  · exact ⟨k.unhandledCnt, fun m => by rw [h]; exact setFramer_framer s n m k⟩
  · exact ⟨_, fun m => by rw [h, respond_framer, setFramer_framer]⟩

/-- Everything one transition of the receive machine of a stack can do without a fault (R212). -/
theorem framerTake_cases {n : Nat} {b : Byte} (h : framerTake n b s = .next t) :
    ((s.framer n).rxState = .waitSelf ∧
      t = framerGoesOn n { s.framer n with pktSelf := b, rxState := .waitDest } s) ∨
    ((s.framer n).rxState = .waitDest ∧
      t = framerGoesOn n { s.framer n with pktDest := b, rxState := .waitOp } s) ∨
    ((s.framer n).rxState = .waitOp ∧
      t = framerGoesOn n { s.framer n with pktOperation := b, rxState := .waitLen } s) ∨
    ((s.framer n).rxState = .waitLen ∧ b = 0 ∧
      t = deliver n { s.framer n with pktLen := b, dataCnt := 0, rxState := .waitSelf } s) ∨
    ((s.framer n).rxState = .waitLen ∧ b ≠ 0 ∧
      t = framerGoesOn n { s.framer n with pktLen := b, dataCnt := 0, rxState := .waitData } s) ∨
    ((s.framer n).rxState = .waitData ∧ (s.framer n).dataCnt.toNat < 255 ∧
      (s.framer n).dataCnt + 1 = (s.framer n).pktLen ∧
      t = deliver n
        { s.framer n with
          pktData := cellWrite (s.framer n).dataCnt.toNat b (s.framer n).pktData
          dataCnt := (s.framer n).dataCnt + 1
          rxState := .waitSelf } s) ∨
    ((s.framer n).rxState = .waitData ∧ (s.framer n).dataCnt.toNat < 255 ∧
      (s.framer n).dataCnt + 1 ≠ (s.framer n).pktLen ∧
      t = framerGoesOn n
        { s.framer n with
          pktData := cellWrite (s.framer n).dataCnt.toNat b (s.framer n).pktData
          dataCnt := (s.framer n).dataCnt + 1 } s) := by
  unfold framerTake at h
  simp only at h
  split at h
  · next hr => cases h; exact .inl ⟨hr, rfl⟩
  · next hr => cases h; exact .inr (.inl ⟨hr, rfl⟩)
  · next hr => cases h; exact .inr (.inr (.inl ⟨hr, rfl⟩))
  · next hr =>
    split at h <;> cases h
    · next hb => exact .inr (.inr (.inr (.inl ⟨hr, hb, rfl⟩)))
    · next hb => exact .inr (.inr (.inr (.inr (.inl ⟨hr, hb, rfl⟩))))
  · next hr =>
    split at h
    · next hi =>
      split at h <;> cases h
      · next hl => exact .inr (.inr (.inr (.inr (.inr (.inl ⟨hr, hi, hl, rfl⟩)))))
      · next hl => exact .inr (.inr (.inr (.inr (.inr (.inr ⟨hr, hi, hl, rfl⟩)))))
    · cases h

/-- In WaitData with the counter below 255 a byte is taken without a fault; in the other states always. -/
theorem framerTake_total (n : Nat) (b : Byte)
    (h : (s.framer n).rxState = .waitData → (s.framer n).dataCnt.toNat < 255) :
    ∃ t, framerTake n b s = .next t := by
  unfold framerTake
  simp only
  split
  · exact ⟨_, rfl⟩
  · exact ⟨_, rfl⟩
  · exact ⟨_, rfl⟩
  · split <;> exact ⟨_, rfl⟩
  · next hr =>
    split
    · split <;> exact ⟨_, rfl⟩
    · next hi => exact absurd (h hr) hi

/-! ## Pops that answer, and guards -/

/-- Everything `popAndRespond` can do without a fault or a refusal (R133). -/
theorem popAndRespond_cases {want : Bool} (h : popAndRespond want s = .next t) :
    s.fifo.valid = true ∧
      ((s.fifo.rd = s.fifo.wr ∧ t = { s with resp := .status .bufferEmpty }) ∨
        (s.fifo.rd ≠ s.fifo.wr ∧ s.fifo.rd ≤ s.fifo.cap ∧
          t = { s with
            fifo := { s.fifo with rd := fifoNext s.fifo s.fifo.rd }
            resp := if want then .element (fifoSlot s.fifo s.fifo.rd) else .status .ok })) := by
  unfold popAndRespond withValidFifo at h
  split at h
  · next hv =>
    refine ⟨hv, ?_⟩
    split at h
    · cases h
    · next hp =>
      cases h
      obtain ⟨he, -⟩ | ⟨-, -, hn⟩ := fifoPop_cases hp
      · exact .inl ⟨he, rfl⟩
      · cases hn
    · next hp =>
      cases h
      obtain ⟨-, hn⟩ | ⟨he, hr, hn⟩ := fifoPop_cases hp
      · cases hn
      · cases hn; exact .inr ⟨he, hr, rfl⟩
  · cases h

/-- An answer put on a next state. -/
theorem thenRespond_cases {r : Response} {o : Out} (h : thenRespond r o = .next t) :
    ∃ u, o = .next u ∧ t = u.respond r := by
  cases o <;> cases h
  exact ⟨_, rfl, rfl⟩

end Sys2Proof.Machine
end

