-- ==== Sys2Proof/Laws/PerInstr.lean ====
section
/-! SUPPORT. One family of statements made per operation: its encoded word carries exactly the fixed bits of
its row of spec/opcode_table.json (30_encoding R91, R93, R94, R103). -/

namespace Sys2Proof.Laws.EncodedWordMatchesRow

/-- The row's `mask` and `match`, taken from the table; a format's bits above its width are fixed at 0. The rows
`FRAME22` and `PKTHDR` fix no bit within their width. -/
def row : Instr → BitVec 32 × BitVec 32
  | .fifoInit _ _ => (0xFFFFFFFF, 0x00000000)
  | .fifoPush _ _ => (0xFFFFFF00, 0x00000100)
  | .fifoPop _ => (0xFFFFFFFE, 0x00000200)
  | .fifoPeek => (0xFFFFFFFF, 0x00000300)
  | .fifoReadn _ => (0xFFFFFFFF, 0x00000400)
  | .fifoClear => (0xFFFFFFFF, 0x00000500)
  | .fifoCap => (0xFFFFFFFF, 0x00000600)
  | .fifoLen => (0xFFFFFFFF, 0x00000700)
  | .fifoFree => (0xFFFFFFFF, 0x00000800)
  | .decStart => (0xFFFFFFFF, 0x00001000)
  | .decEdge => (0xFFFFFFFF, 0x00001100)
  | .decSample _ => (0xFFFFFFFE, 0x00001200)
  | .decWant => (0xFFFFFFFF, 0x00001300)
  | .decReset => (0xFFFFFFFF, 0x00001400)
  | .phyInit => (0xFFFFFFFF, 0x00002000)
  | .phyTxen _ => (0xFFFFFFFE, 0x00002100)
  | .phyWrite _ _ => (0xFFFFFFFF, 0x00002200)
  | .phyRead => (0xFFFFFFFF, 0x00002300)
  | .phyEdgeirq => (0xFFFFFFFF, 0x00002400)
  | .phyTick _ => (0xFFFFFFFE, 0x00002500)
  | .fmt _ => (0xFFFFFF00, 0x00002600)
  | .pktInit _ _ _ _ => (0xFFFFFF00, 0x00003000)
  | .pktRxbyte _ => (0xFFFFFF00, 0x00003100)
  | .pktSend _ _ _ _ => (0xFFFFFFFF, 0x00003200)
  | .frame22 _ => (0xFFC00000, 0x00000000)
  | .fmtword _ _ => (0xFFFAAAAB, 0x003AAAAA)
  | .pkthdr _ _ _ _ => (0x00000000, 0x00000000)

/-- The word of the operation has the fixed bits of its row. -/
@[reducible] def Statement (i : Instr) : Prop := i.word &&& (row i).1 = (row i).2

theorem fifoInit (capacity elemSize : Size) : Statement (.fifoInit capacity elemSize) := by
  simp only [Statement, Instr.word, row]
  decide

theorem fifoPush (arg : Byte) (wide : List Byte) : Statement (.fifoPush arg wide) := by
  have h : ∀ a : Byte, (opWord 0x01 a).setWidth 32 &&& 0xFFFFFF00#32 = 0x00000100#32 := by decide
  exact h arg

theorem fifoPop (want : Bool) : Statement (.fifoPop want) := by cases want <;> decide

theorem fifoPeek : Statement .fifoPeek := by decide

theorem fifoReadn (maxLen : Size) : Statement (.fifoReadn maxLen) := by
  simp only [Statement, Instr.word, row]
  decide

theorem fifoClear : Statement .fifoClear := by decide

theorem fifoCap : Statement .fifoCap := by decide

theorem fifoLen : Statement .fifoLen := by decide

theorem fifoFree : Statement .fifoFree := by decide

theorem decStart : Statement .decStart := by decide

theorem decEdge : Statement .decEdge := by decide

theorem decSample (b : Bool) : Statement (.decSample b) := by cases b <;> decide

theorem decWant : Statement .decWant := by decide

theorem decReset : Statement .decReset := by decide

theorem phyInit : Statement .phyInit := by decide

theorem phyTxen (e : Bool) : Statement (.phyTxen e) := by cases e <;> decide

theorem phyWrite (data : Option (List Byte)) (len : Nat) : Statement (.phyWrite data len) := by
  simp only [Statement, Instr.word, row]
  decide

theorem phyRead : Statement .phyRead := by decide

theorem phyEdgeirq : Statement .phyEdgeirq := by decide

theorem phyTick (l : Bool) : Statement (.phyTick l) := by cases l <;> decide

theorem fmt (b : Byte) : Statement (.fmt b) := by
  have h : ∀ a : Byte, (opWord 0x26 a).setWidth 32 &&& 0xFFFFFF00#32 = 0x00002600#32 := by decide
  exact h b

theorem pktInit (ownAddr : OnStack Byte) (rxCb : Option Nat) (txCb : TxCallback) (txOpaque : Option Nat) :
    Statement (.pktInit ownAddr rxCb txCb txOpaque) := by
  have h : ∀ a : Byte, (opWord 0x30 a).setWidth 32 &&& 0xFFFFFF00#32 = 0x00003000#32 := by decide
  exact h ownAddr.operand

theorem pktRxbyte (b : OnStack Byte) : Statement (.pktRxbyte b) := by
  have h : ∀ a : Byte, (opWord 0x31 a).setWidth 32 &&& 0xFFFFFF00#32 = 0x00003100#32 := by decide
  exact h b.operand

theorem pktSend (dest : OnStack Byte) (opcode : Byte) (data : Option (List Byte)) (len : Byte) :
    Statement (.pktSend dest opcode data len) := by
  simp only [Statement, Instr.word, row]
  decide

theorem frame22 (samples : BitVec 22) : Statement (.frame22 samples) := by
  apply BitVec.eq_of_getLsbD_eq
  intro i hi
  interval_cases i <;> simp [Instr.word, row]

theorem fmtword (b : Byte) (p : Bool) : Statement (.fmtword b p) := by
  have h : ∀ (b : Byte) (p : Bool), fmtwordBits b p &&& 0xFFFAAAAB = 0x003AAAAA := by decide
  exact h b p

theorem pkthdr (selfAddr : OnStack Byte) (destAddr operation len : Byte) :
    Statement (.pkthdr selfAddr destAddr operation len) := by
  simp [Statement, row]

end Sys2Proof.Laws.EncodedWordMatchesRow
end

