-- ==== Sys2Proof/Laws/Step.lean ====
section
/-! SUPPORT. What one step can do, said once: which operation it performs, or what it goes on with
(spec/20_memory.md R71, R72; spec/43_phy_tx.md R196). -/

namespace Sys2Proof.Machine

variable {s t : State}

/-- A coded operation is performed only when its code decodes and its agent may perform it; then it is its meaning,
or no step for a decoder event that is not offered. -/
theorem runCode_cases {a : Agent} {c : Code} (h : runCode a c s = .next t) :
    ∃ i, decode c = .ok i ∧ i.performer.allows a = true ∧
      (notOffered i s = true ∧ t = s.respond .noStep ∨
        notOffered i s = false ∧ exec i s = .next t) := by
  unfold runCode at h
  split at h
  · cases h
  · next i hd =>
    split at h
    · next ha =>
      refine ⟨i, hd, ha, ?_⟩
      split at h
      · next hn => cases h; exact .inl ⟨hn, rfl⟩
      · next hn => exact .inr ⟨by simpa using hn, h⟩
    · cases h

/-- An event that is not offered is a decoder event, offered on its own to an initialised block, that would start or
end a frame. -/
theorem notOffered_cases {i : Instr} (h : notOffered i s = true) :
    isDecoderEvent i = true ∧ s.instanceActive = true ∧ s.params.loneDecoderEvents = false ∧
      ∃ t, exec i s = .next t ∧ t.dec.ongoing ≠ s.dec.ongoing := by
  simp only [notOffered, Bool.and_eq_true, Bool.not_eq_true'] at h
  obtain ⟨⟨⟨h1, h2⟩, h3⟩, h4⟩ := h
  refine ⟨h1, h2, h3, ?_⟩
  unfold changesFrame at h4
  split at h4
  · next t ht => exact ⟨t, ht, by simpa using h4⟩
  · cases h4
  · cases h4

/-- A pseudo-operation only offers inputs to the interrupt agent, or starts one of the foreground's. -/
theorem expandPseudo_cases {a : Agent} {p : Pseudo} (h : expandPseudo a p s = .next t) :
    (a = .irq ∧ ∃ ins, t = offerInputs ins s) ∨
    (a = .fg ∧ ∃ f, t = (s.setFg (f :: s.fg)).respond .inProgress) := by
  cases a <;> cases p <;> simp only [expandPseudo] at h <;> cases h
  · exact .inl ⟨rfl, _, rfl⟩
  · exact .inl ⟨rfl, _, rfl⟩
  · exact .inl ⟨rfl, _, rfl⟩
  · exact .inl ⟨rfl, _, rfl⟩
  · exact .inl ⟨rfl, _, rfl⟩
  · exact .inr ⟨rfl, _, rfl⟩
  · exact .inr ⟨rfl, _, rfl⟩

/-- Everything a turn of the interrupt agent can do without a fault or a refusal. -/
theorem irqTurn_cases (h : irqTurn s = .next t) :
    (s.irqIn = [] ∧ t = s) ∨
    (∃ c rest, s.irqIn = .op c :: rest ∧ runCode .irq c (s.setIrqIn rest) = .next t) ∨
    (∃ p rest, s.irqIn = .pseudo p :: rest ∧ expandPseudo .irq p (s.setIrqIn rest) = .next t) ∨
    (∃ rest, s.irqIn = .txrunTick :: rest ∧
      exec (.phyTick (txrunLevel s)) (s.setIrqIn rest).drawFree = .next t) := by
  unfold irqTurn at h
  split at h
  · next hi => cases h; exact .inl ⟨hi, rfl⟩
  · next hi => exact .inr (.inl ⟨_, _, hi, h⟩)
  · next hi => exact .inr (.inr (.inl ⟨_, _, hi, h⟩))
  · next hi => exact .inr (.inr (.inr ⟨_, hi, h⟩))
  · cases h

/-- Everything the return of a callback can do without a refusal (R213, R214). -/
theorem returnFromCallback_cases {st : Status} (h : returnFromCallback st s = .next t) :
    (∃ fs, s.fg = .sendCb :: fs ∧ t = (s.setFg fs).respond (.status (callbackStatus st))) ∨
    (∃ n fs, s.fg = .recvCb n :: fs ∧
      t = (s.setFg (noteFailure st fs)).respond (.status (callbackStatus st))) := by
  unfold returnFromCallback at h
  split at h
  · next hf => cases h; exact .inl ⟨_, hf, rfl⟩
  · next hf => cases h; exact .inr ⟨_, _, hf, rfl⟩
  · cases h

/-- Everything the check step of a `PHY.WRITE` called by a `PKT.SEND` can do without a refusal (R193). -/
theorem checkStep_cases {data : Option (List Byte)} {len : Nat} {fs : List FgFrame}
    (h : checkStep data len fs s = .next t) :
    (∃ st, writeCheck (bufferMissing data len) len s = .returns st ∧
      t = returnFromWrite st true fs s) ∨
    (writeCheck (bufferMissing data len) len s = .begins ∧
      t = (s.setFg (.writeBegin data len true :: fs)).respond .inProgress) := by
  unfold checkStep at h
  split at h <;> cases h
  · next hc => exact .inl ⟨_, hc, rfl⟩
  · next hc => exact .inr ⟨hc, rfl⟩

/-- Everything taking an input of the foreground can do without a fault or a refusal. -/
theorem fgInput_cases (h : fgInput s = .next t) :
    (s.fgIn = [] ∧ t = s) ∨
    (∃ c rest, s.fgIn = .op c :: rest ∧ runCode .fg c (s.setFgIn rest) = .next t) ∨
    (∃ p rest, s.fgIn = .pseudo p :: rest ∧ expandPseudo .fg p (s.setFgIn rest) = .next t) ∨
    (∃ st rest, s.fgIn = .cbReturn st :: rest ∧
      returnFromCallback st (s.setFgIn rest) = .next t) := by
  unfold fgInput at h
  split at h
  · next hi => cases h; exact .inl ⟨hi, rfl⟩
  · next hi => exact .inr (.inl ⟨_, _, hi, h⟩)
  · next hi => exact .inr (.inr (.inl ⟨_, _, hi, h⟩))
  · cases h
  · next hi => exact .inr (.inr (.inr ⟨_, _, hi, h⟩))

/-- Everything a turn of the foreground agent can do without a fault or a refusal. -/
theorem fgTurn_cases (h : fgTurn s = .next t) :
    (∃ data len fs, s.fg = .writeCheck data len :: fs ∧ checkStep data len fs s = .next t) ∨
    (∃ data len inSend fs, s.fg = .writeBegin data len inSend :: fs ∧
      writeBegin data len inSend fs s = .next t) ∨
    (∃ inSend fs, s.fg = .write inSend :: fs ∧
      (s.phy.busState = .tx ∧ t = s.respond .held ∨
        s.phy.busState ≠ .tx ∧ t = returnFromWrite .ok inSend fs s)) ∨
    (∃ n fs u, s.fg = .poll n none :: fs ∧ exec .phyRead s = .next u ∧ t = pollAfterRead n fs u) ∨
    (∃ n b fs, s.fg = .poll n (some b) :: fs ∧
      exec (.pktRxbyte ⟨n, b⟩) (s.setFg (.poll n none :: fs)) = .next t) ∨
    (∃ n b bs failed fs, s.fg = .rxbuf n (b :: bs) failed :: fs ∧
      exec (.pktRxbyte ⟨n, b⟩) (s.setFg (.rxbuf n bs failed :: fs)) = .next t) ∨
    (∃ n failed fs, s.fg = .rxbuf n [] failed :: fs ∧
      t = (s.setFg fs).respond (.status (if failed then .cbFailed else .ok))) ∨
    ((s.fg = [] ∨ ∃ fs, s.fg = .sendCb :: fs ∨ ∃ n, s.fg = .recvCb n :: fs) ∧
      fgInput s = .next t) := by
  unfold fgTurn at h
  split at h
  · next hf => exact .inl ⟨_, _, _, hf, h⟩
  · next hf => exact .inr (.inl ⟨_, _, _, _, hf, h⟩)
  · next hf =>
    unfold waitStep at h
    split at h <;> cases h
    · next hb => exact .inr (.inr (.inl ⟨_, _, hf, .inl ⟨hb, rfl⟩⟩))
    · next hb => exact .inr (.inr (.inl ⟨_, _, hf, .inr ⟨hb, rfl⟩⟩))
  · next hf =>
    unfold pollRead at h
    split at h <;> cases h
    next u hu => exact .inr (.inr (.inr (.inl ⟨_, _, u, hf, hu, rfl⟩)))
  · next hf => exact .inr (.inr (.inr (.inr (.inl ⟨_, _, _, hf, h⟩))))
  · next hf => exact .inr (.inr (.inr (.inr (.inr (.inl ⟨_, _, _, _, _, hf, h⟩)))))
  · next hf => cases h; exact .inr (.inr (.inr (.inr (.inr (.inr (.inl ⟨_, _, _, hf, rfl⟩))))))
  · next hf => exact .inr (.inr (.inr (.inr (.inr (.inr (.inr ⟨.inr ⟨_, .inl hf⟩, h⟩))))))
  · next hf => exact .inr (.inr (.inr (.inr (.inr (.inr (.inr ⟨.inr ⟨_, .inr ⟨_, hf⟩⟩, h⟩))))))
  · next hf => exact .inr (.inr (.inr (.inr (.inr (.inr (.inr ⟨.inl hf, h⟩))))))

/-- Everything a step can do without a fault or a refusal. -/
theorem step_cases (h : step s = .next t) :
    (edgeDeliverable s = true ∧ exec .phyEdgeirq s = .next t) ∨
    (edgeDeliverable s = false ∧ s.sched = [] ∧ t = s) ∨
    (edgeDeliverable s = false ∧ ∃ rest, s.sched = .irq :: rest ∧
      irqTurn (s.setSched rest) = .next t) ∨
    (edgeDeliverable s = false ∧ ∃ rest, s.sched = .fg :: rest ∧
      fgTurn (s.setSched rest) = .next t) := by
  unfold step nextStep at h
  split at h
  · next he => exact .inl ⟨he, h⟩
  · next he =>
    have he : edgeDeliverable s = false := by simpa using he
    split at h
    · next hs => cases h; exact .inr (.inl ⟨he, hs, rfl⟩)
    · next hs => exact .inr (.inr (.inl ⟨he, _, hs, h⟩))
    · next hs => exact .inr (.inr (.inr ⟨he, _, hs, h⟩))

/-- The next byte of a `PKT.POLL` changes only what the foreground is inside of. -/
theorem pollAfterRead_eq (n : Nat) (fs : List FgFrame) (s : State) :
    ∃ gs, pollAfterRead n fs s = s.setFg gs ∧ (gs = fs ∨ ∃ b, gs = .poll n (some b) :: fs) := by
  unfold pollAfterRead
  split
  · exact ⟨_, rfl, .inr ⟨_, rfl⟩⟩
  · exact ⟨_, rfl, .inl rfl⟩

end Sys2Proof.Machine
end

