-- ==== Sys2Proof/Tests/Slice0.lean ====
section
/-! SUPPORT. Tests on fixed values: expected results from spec/95_test_vectors.md (named by vector) and words
written out from spec/30_encoding.md. Then, for each statement with hypotheses, states and operands that
meet them. -/

namespace Sys2Proof.Tests

open Sys2Proof Sys2Proof.Machine

/-! ## Small states -/

/-- What a next state shows; nothing for a fault or a refusal. -/
def view {α : Type} (f : State → α) : Out → Option α
  | .next t => some (f t)
  | .fault _ => none
  | .refused _ => none

/-- Idle, nothing received, a framer of address 0x05 with a receive callback. -/
def idle : State :=
  { State.reset with
    instanceActive := true
    fifo := ⟨3, 1, [], 0, 0, true⟩
    phy := { Phy.uninitialised with busState := .idle, edgeIrqEnabled := true }
    framers := [{ Framer.unconstructed with constructed := true, ownAddr := 0x05, rxCb := some 7 }] }

/-- The buffer of V-F5 with the indices given: slots 0 to 3 are those of the table's step. -/
def buffered (slots : List Host.Cell) (rd wr : Nat) : State :=
  { idle with fifo := ⟨3, 1, slots, rd, wr, true⟩ }

/-- A decoder part way through a frame. -/
def decoding (d : Decoder) : State := { idle with dec := d }

/-- In Rx with the decoder given. -/
def receiving (d : Decoder) : State :=
  { idle with
    dec := d
    phy := { idle.phy with busState := .rx, timerRunning := true, edgeIrqEnabled := false } }

/-- In Tx, sending the one word of 0xA5, with the cursors and the phase given. -/
def sending (bit : BitVec 5) (collate : Bool) : State :=
  { idle with
    fg := [.write false]
    phy := { idle.phy with
      busState := .tx
      timerRunning := true
      edgeIrqEnabled := false
      txbuf := [(0, 0x003BBAEE)]
      txLen := 1
      txBitCur := bit
      collate := collate } }

/-- The framer in the receive state given, with a packet of two payload bytes for 0x06 part way. -/
def framing (st : RxState) (cnt : Byte) : State :=
  { idle with framers := [{ idle.framer 0 with
      rxState := st, pktSelf := 0x12, pktDest := 0x06, pktOperation := 0x01, pktLen := 2, dataCnt := cnt }] }

/-- The framer with the transmit callback given. -/
def sender (cb : TxCallback) : State :=
  { idle with framers := [{ idle.framer 0 with ownAddr := 0x10, txCb := cb }] }

/-- The agent given is next, with one input. -/
def offered (a : Agent) (i : Input) (s : State) : State :=
  match a with
  | .irq => { s with sched := [.irq], irqIn := [i] }
  | .fg => { s with sched := [.fg], fgIn := [i] }

/-! ## Operands that no operation word carries -/

theorem test_wide_element_needs_zero_arg : (Instr.fifoPush 0x01 [0x02, 0x03]).wf = false := by decide

theorem test_wide_element_has_two_bytes : (Instr.fifoPush 0x00 [0x02]).wf = false := by decide

theorem test_ill_formed_push_refused :
    decodeWord ⟨.opw, 0x0101, { element := [2, 3] }⟩ matches .ok (.fifoPush 1 [2, 3]) ∧
      decode ⟨.opw, 0x0101, { element := [2, 3] }⟩ matches .error .illFormed := by decide

theorem test_unused_operand_refused :
    decode ⟨.opw, 0x0300, { maxLen := 1 }⟩ matches .error .unusedOperand := by decide

/-! ## Words, written out from R91, R93, R94 and R103 -/

theorem test_decode_fifo :
    decodeTableWord 16 0b0000000000000000 = some (.fifoInit 0 0) ∧
    decodeTableWord 16 0b0000000101000001 = some (.fifoPush 0x41 []) ∧
    decodeTableWord 16 0b0000001000000001 = some (.fifoPop true) ∧
    decodeTableWord 16 0b0000001100000000 = some .fifoPeek ∧
    decodeTableWord 16 0b0000010000000000 = some (.fifoReadn 0) ∧
    decodeTableWord 16 0b0000010100000000 = some .fifoClear ∧
    decodeTableWord 16 0b0000011000000000 = some .fifoCap ∧
    decodeTableWord 16 0b0000011100000000 = some .fifoLen ∧
    decodeTableWord 16 0b0000100000000000 = some .fifoFree := by decide

theorem test_decode_decoder :
    decodeTableWord 16 0b0001000000000000 = some .decStart ∧
    decodeTableWord 16 0b0001000100000000 = some .decEdge ∧
    decodeTableWord 16 0b0001001000000001 = some (.decSample true) ∧
    decodeTableWord 16 0b0001001000000000 = some (.decSample false) ∧
    decodeTableWord 16 0b0001001100000000 = some .decWant ∧
    decodeTableWord 16 0b0001010000000000 = some .decReset := by decide

theorem test_decode_orchestrator :
    decodeTableWord 16 0b0010000000000000 = some .phyInit ∧
    decodeTableWord 16 0b0010000100000001 = some (.phyTxen true) ∧
    decodeTableWord 16 0b0010001000000000 = some (.phyWrite none 0) ∧
    decodeTableWord 16 0b0010001100000000 = some .phyRead ∧
    decodeTableWord 16 0b0010010000000000 = some .phyEdgeirq ∧
    decodeTableWord 16 0b0010010100000001 = some (.phyTick true) ∧
    decodeTableWord 16 0b0010011010100101 = some (.fmt 0xA5) := by decide

theorem test_decode_framer :
    decodeTableWord 16 0b0011000000000101 = some (.pktInit ⟨0, 0x05⟩ none .absent none) ∧
    decodeTableWord 16 0b0011000110000001 = some (.pktRxbyte ⟨0, 0x81⟩) ∧
    decodeTableWord 16 0b0011001000000000 = some (.pktSend ⟨0, 0⟩ 0 none 0) := by decide

theorem test_decode_wire :
    decodeTableWord 24 0b0111010101010101011111 = some (.frame22 0b0111010101010101011111) ∧
    decodeTableWord 32 0b00000000001111101010101010101110 = some (.fmtword 0x01 true) ∧
    decodeTableWord 32 0b00010000000001010010101000000011 = some (.pkthdr ⟨0, 0x10⟩ 0x05 0x2A 0x03) := by
  decide

theorem test_decode_rejects :
    decodeTableWord 16 0b0000100100000000 = none ∧
    decodeTableWord 16 0b0000001000000010 = none ∧
    decodeTableWord 16 0b0010000000000001 = none ∧
    decodeTableWord 24 0b100000000000000000000000 = none := by decide

theorem test_encode_operands :
    (encode (.pktSend ⟨0, 5⟩ 42 (some [1, 2, 3]) 3)).word = 0x00003200 ∧
    decode (encode (.pktSend ⟨0, 5⟩ 42 (some [1, 2, 3]) 3)) matches .ok (.pktSend ⟨0, 5⟩ 42 (some [1, 2, 3]) 3) := by
  decide

/-! ## The FIFO -/

/-- V-F1 -/
theorem test_fifo_init :
    view (fun t => (t.resp, t.fifo)) (exec (.fifoInit 3 1) State.reset) =
      some (.status .ok, ⟨3, 1, [], 0, 0, true⟩) := by decide

/-- V-F2 -/
theorem test_fifo_init_too_large :
    view (·.resp) (exec (.fifoInit 0x7FFFFFFF 2) State.reset) = some (.status .badParam) ∧
    view (·.resp) (exec (.fifoInit 0x7FFFFFFE 2) State.reset) = some (.status .ok) := by decide

/-- V-F5, step 6 -/
theorem test_fifo_push_wraps :
    view (·.fifo) (exec (.fifoPush 4 []) (buffered [(0, 1), (1, 2), (2, 3)] 1 3)) =
      some ⟨3, 1, [(0, 1), (1, 2), (2, 3), (3, 4)], 1, 0, true⟩ := by decide

/-- V-F4 -/
theorem test_fifo_push_full :
    view (fun t => (t.resp, t.fifo)) (exec (.fifoPush 9 []) (buffered [(0, 1), (1, 2), (2, 3)] 0 3)) =
      some (.status .bufferFull, ⟨3, 1, [(0, 1), (1, 2), (2, 3)], 0, 3, true⟩) := by decide

/-- V-F5, step 7 -/
theorem test_fifo_pop :
    view (fun t => (t.resp, t.fifo.rd, t.fifo.wr))
      (exec (.fifoPop true) (buffered [(0, 1), (1, 2), (2, 3), (3, 4)] 1 0)) =
      some (.element [2], 2, 0) := by decide

/-- V-F6 -/
theorem test_fifo_pop_discards :
    view (fun t => (t.resp, t.fifo.rd)) (exec (.fifoPop false) (buffered [(0, 0x41), (1, 0x42)] 0 2)) =
      some (.status .ok, 1) := by decide

/-- V-F5, step 11 -/
theorem test_fifo_peek :
    view (fun t => (t.resp, t.fifo.rd))
      (exec .fifoPeek (buffered [(0, 5), (1, 2), (2, 3), (3, 4)] 2 1)) = some (.element [3], 2) := by
  decide

/-- V-F5, step 9 -/
theorem test_fifo_readn_wraps :
    view (·.resp) (exec (.fifoReadn 10) (buffered [(0, 5), (1, 2), (2, 3), (3, 4)] 2 1)) =
      some (.elements 3 [[3], [4], [5]]) := by decide

/-- V-F5, step 10 -/
theorem test_fifo_readn_bounded :
    view (·.resp) (exec (.fifoReadn 2) (buffered [(0, 5), (1, 2), (2, 3), (3, 4)] 2 1)) =
      some (.elements 2 [[3], [4]]) := by decide

/-- V-F5, steps 13 and 14 -/
theorem test_fifo_clear :
    view (fun t => (t.resp, t.fifo.rd, t.fifo.wr)) (exec .fifoClear (buffered [(0, 5)] 2 1)) =
      some (.status .ok, 1, 1) ∧
    view (·.resp) (exec .fifoClear (buffered [(0, 5)] 1 1)) = some (.status .bufferEmpty) := by decide

/-- V-F1 and V-F5, step 12 -/
theorem test_fifo_cap_len :
    view (·.resp) (exec .fifoCap (buffered [] 2 1)) = some (.number 3) ∧
    view (·.resp) (exec .fifoLen (buffered [] 2 1)) = some (.number 3) := by decide

/-- R139 -/
theorem test_fifo_free :
    view (fun t => (t.resp, t.fifo.valid)) (exec .fifoFree idle) = some (.status .ok, false) := by decide

/-! ## The decoder -/

/-- V-D5 -/
theorem test_dec_start :
    view (fun t => (t.resp, t.dec)) (exec .decStart idle) =
      some (.decoder ⟨true, false, 0, 0⟩, ⟨true, false, false, 0, 0, 0, 0⟩) ∧
    view (·.resp) (exec .decStart (decoding ⟨true, true, true, 1, 0, 0, 0⟩)) =
      some (.decoder ⟨false, false, 0, 0⟩) := by decide

/-- V-D5 -/
theorem test_dec_edge :
    view (fun t => (t.resp, t.dec)) (exec .decEdge (decoding ⟨true, true, true, 1, 0, 0, 0⟩)) =
      some (.decoder ⟨true, false, 0, 0⟩, ⟨true, false, true, 1, 0, 0, 0⟩) ∧
    view (·.resp) (exec .decEdge (decoding ⟨true, false, false, 0, 0, 0, 0⟩)) =
      some (.decoder ⟨false, false, 0, 0⟩) := by decide

/-- V-D1, row 16 -/
theorem test_dec_sample_last_data_bit :
    view (·.dec) (exec (.decSample true) (decoding ⟨true, false, false, 16, 7, 0x25, 0⟩)) =
      some ⟨true, true, true, 17, 0, 0xA5, 0⟩ := by decide

/-- V-D1, row 21 -/
theorem test_dec_sample_last :
    view (fun t => (t.resp, t.dec))
      (exec (.decSample true) (decoding ⟨true, false, true, 21, 0, 0xA5, 0⟩)) =
      some (.decoder ⟨true, true, 0xA5, 0⟩, Decoder.zero) := by decide

/-- V-D5 -/
theorem test_dec_want :
    view (·.resp) (exec .decWant (decoding ⟨true, false, false, 0, 0, 0, 0⟩)) = some (.bit true) ∧
    view (·.resp) (exec .decWant (decoding ⟨true, true, true, 1, 0, 0, 0⟩)) = some (.bit false) := by
  decide

/-- V-D5 -/
theorem test_dec_reset :
    view (·.dec) (exec .decReset (decoding ⟨true, true, true, 7, 3, 0x25, 0x08⟩)) =
      some Decoder.zero := by decide

/-! ## The orchestrator -/

/-- V-R1 -/
theorem test_phy_init :
    view (fun t => (t.resp, t.phy.busState, t.phy.timerRunning, t.phy.edgeIrqEnabled, t.phy.din))
      (exec .phyInit State.reset) = some (.status .ok, .idle, false, true, true) ∧
    view (·.resp) (exec .phyInit idle) = some (.status .badParam) := by decide

/-- V-R7, with `RST_ACTIVE_LEVEL` 0 -/
theorem test_phy_txen :
    view (fun t => (t.phy.txEnabled, t.phy.rstLine)) (exec (.phyTxen true) idle) = some (true, true) ∧
    view (fun t => (t.phy.txEnabled, t.phy.rstLine)) (exec (.phyTxen false) idle) =
      some (false, false) := by decide

/-- V-T2 -/
theorem test_phy_write :
    view (fun t => (t.phy.txbuf, t.phy.txLen, t.phy.busState, t.phy.din, t.fg))
      (fgTurn { idle with fg := [.writeBegin (some [0xA5]) 1 false] }) =
      some ([(0, 0x003BBAEE)], 1, .tx, true, [.write false]) := by decide

/-- V-T1, and the check step of V-T2 -/
theorem test_phy_write_checks :
    view (fun t => (t.fg, t.phy.busState)) (exec (.phyWrite (some [0xA5]) 1) idle) =
      some ([.writeBegin (some [0xA5]) 1 false], .idle) ∧
    view (·.resp) (exec (.phyWrite none 3) idle) = some (.status .badParam) ∧
    view (·.resp) (exec (.phyWrite none 0) idle) = some (.status .ok) := by decide

/-- V-R2 -/
theorem test_phy_read :
    view (fun t => (t.resp, t.fifo.rd)) (exec .phyRead (buffered [(0, 0x10)] 0 1)) =
      some (.element [0x10], 1) ∧
    view (·.resp) (exec .phyRead idle) = some (.status .bufferEmpty) := by decide

/-- V-R2 -/
theorem test_phy_edgeirq :
    view (fun t => (t.phy.busState, t.phy.timerRunning, t.phy.edgeIrqEnabled, t.dec.ongoing))
      (exec .phyEdgeirq idle) = some (.rx, true, false, true) := by decide

/-- V-R6 -/
theorem test_phy_edgeirq_resynchronises :
    view (fun t => (t.phy.busState, t.phy.logReentrant, t.dec))
      (exec .phyEdgeirq (decoding ⟨true, true, true, 7, 3, 0, 0⟩)) = some (.idle, 1, Decoder.zero) := by
  decide

/-- V-R2, tick 43, with the data of 0x10 -/
theorem test_phy_tick_receives :
    view (fun t => (t.phy.busState, t.phy.edgeIrqEnabled, t.fifo, t.dec))
      (exec (.phyTick true) (receiving ⟨true, false, true, 21, 0, 0x10, 0⟩)) =
      some (.idle, true, ⟨3, 1, [(0, 0x10)], 0, 1, true⟩, Decoder.zero) := by decide

/-- V-T2, ticks 43 and 44 -/
theorem test_phy_tick_sends :
    view (fun t => (t.phy.din, t.phy.collate, t.driven)) (exec (.phyTick false) (sending 21 false)) =
      some (true, true, [true]) ∧
    view (fun t => (t.phy.busState, t.phy.txBitCur, t.phy.txByteCur))
      (exec (.phyTick false) (sending 21 true)) = some (.idle, 0, 1) := by decide

/-- V-E1 -/
theorem test_fmt :
    view (·.resp) (exec (.fmt 0xA5) State.reset) = some (.word 0x003BBAEE) ∧
    view (·.resp) (exec (.fmt 0x80) State.reset) = some (.word 0x003FAAAA) := by decide

/-! ## The framer -/

/-- V-S2 -/
theorem test_pkt_init :
    view (fun t => (t.resp, (t.framer 0).ownAddr, (t.framer 0).rxState, (t.framer 0).unhandledCnt))
      (exec (.pktInit ⟨0, 0x05⟩ (some 7) .absent none) State.reset) =
      some (.status .ok, 0x05, .waitSelf, 0) := by decide

/-- V-K1, the row of 0xBB -/
theorem test_pkt_rxbyte_unhandled :
    view (fun t => (t.resp, (t.framer 0).rxState, (t.framer 0).dataCnt, (t.framer 0).unhandledCnt))
      (exec (.pktRxbyte ⟨0, 0xBB⟩) (framing .waitData 1)) = some (.status .ok, .waitSelf, 2, 1) := by decide

/-- V-K1, the row of 0x02 -/
theorem test_pkt_rxbyte_length :
    view (fun t => (t.resp, (t.framer 0).rxState, (t.framer 0).dataCnt))
      (exec (.pktRxbyte ⟨0, 0x02⟩) (framing .waitLen 2)) = some (.status .ok, .waitData, 0) := by decide

/-- V-S1 -/
theorem test_pkt_send :
    view (·.txCalls) (exec (.pktSend ⟨0, 5⟩ 42 (some [1, 2, 3]) 3) (sender (.user 4))) =
      some [⟨.user 4, [0x10, 0x05, 0x2A, 0x03, 0x01, 0x02, 0x03], 7, none⟩] := by decide

/-- V-K3 -/
theorem test_pkt_send_checks :
    view (·.resp) (exec (.pktSend ⟨0, 1⟩ 2 none 1) (sender .absent)) = some (.status .badParam) ∧
    view (·.resp) (exec (.pktSend ⟨0, 1⟩ 2 none 0) (sender .absent)) = some (.status .txUnregistered) := by
  decide

/-! ## The wire formats and the step -/

/-- R106 with V-E1: an edge and 43 ticks; the sixth tick sees sample 2 of 0xA5. -/
theorem test_frame22 :
    view (fun t => (t.irqIn.length, t.irqIn[0]?, t.irqIn[5]?))
      (exec (.frame22 0b0111011101011101110111) idle) =
      some (44, some (.op (encode .phyEdgeirq)), some (.op (encode (.phyTick true)))) := by decide

/-- R106 with V-E1: a start, 22 samples and 21 edges; the first sample of 0x01 is 0 and the third 1. -/
theorem test_fmtword :
    view (fun t => (t.irqIn.length, t.irqIn[1]?, t.irqIn[5]?)) (exec (.fmtword 0x01 true) idle) =
      some (44, some (.op (encode (.decSample false))), some (.op (encode (.decSample true)))) := by
  decide

/-- R94 -/
theorem test_pkthdr :
    view (·.fg) (exec (.pkthdr ⟨0, 0x10⟩ 0x05 0x2A 0x03) idle) =
      some [.rxbuf 0 [0x10, 0x05, 0x2A, 0x03] false] := by decide

theorem test_step_runs_placed_word :
    view (·.resp) (step (State.reset.withFetchWord 16 0x2601)) = some (.word 0x003EAAAE) ∧
    view (fun t => (t.resp, t.dec.ongoing)) (step (State.reset.withFetchWord 16 0x1000)) =
      some (.decoder ⟨true, false, 0, 0⟩, true) := by decide

/-- R213, R214: a callback that fails -/
theorem test_step_callback_returns :
    view (fun t => (t.resp, t.fg))
      (step (offered .fg (.cbReturn .userFn) { idle with fg := [.recvCb 0] })) =
      some (.status .cbFailed, []) := by decide

/-- R210: a second stack has its own `K`, and the first keeps its own. -/
theorem test_pkt_init_second_stack :
    view (fun t => ((t.framer 2).ownAddr, (t.framer 1).constructed, (t.framer 0).ownAddr))
      (exec (.pktInit ⟨2, 0x09⟩ none .absent none) idle) = some (0x09, false, 0x05) := by decide

/-- R242: inside the receive callback of one stack, a byte for another is taken. -/
theorem test_pkt_rxbyte_other_stack :
    view (fun t => ((t.framer 0).rxState, (t.framer 0).pktSelf))
      (exec (.pktRxbyte ⟨0, 0x10⟩) { idle with fg := [.recvCb 1] }) = some (.waitDest, 0x10) ∧
    exec (.pktRxbyte ⟨0, 0x10⟩) { idle with fg := [.recvCb 0] } matches .refused .reentrantRxbyte := by
  decide

/-- R210, R214, R193: a packet too long for the transmit buffer; the `PKT.SEND` ends with the check of its
`PHY.WRITE`. -/
theorem test_step_send_too_long :
    view (fun t => (t.resp, t.fg, t.phy.busState))
      (step { idle with fg := [.writeCheck (some []) 260], sched := [.fg] }) =
      some (.status .cbFailed, [], .idle) := by decide

/-- R194, 93_implementation_defined U1: an edge has started a frame since the check. -/
theorem test_step_begin_in_rx :
    step { receiving Decoder.zero with fg := [.writeBegin (some [0xA5]) 1 false], sched := [.fg] }
      matches .refused .writeNotIdle := by decide

/-- Where the environment offers decoder events on their own. -/
def withLoneEvents (s : State) : State := { s with params := { s.params with loneDecoderEvents := true } }

/-- R36 (iv): on its own, a start is not offered to an initialised block; where it is, R151; and V-R6: an edge that
finds a frame in progress resynchronises. -/
theorem test_step_lone_start :
    view (fun t => (t.resp, t.dec)) (step (offered .irq (.op (encode .decStart)) idle)) =
      some (.noStep, Decoder.zero) ∧
    view (fun t => (t.resp, t.dec.ongoing))
      (step (offered .irq (.op (encode .decStart)) (withLoneEvents idle))) =
      some (.decoder ⟨true, false, 0, 0⟩, true) ∧
    view (fun t => (t.dec, t.phy.busState, t.phy.logReentrant))
      (exec .phyEdgeirq { idle with dec := { Decoder.zero with ongoing := true } }) =
      some (Decoder.zero, .idle, 1) := by decide

/-- V-D5: a reset in mid-frame, before `PHY.INIT`, and on its own in Rx where it is offered; R36 (iv): where not. -/
theorem test_step_lone_reset :
    view (fun t => (t.resp, t.dec))
      (step (offered .irq (.op (encode .decReset))
        { State.reset with dec := { Decoder.zero with ongoing := true } })) = some (.nothing, Decoder.zero) ∧
    view (fun t => (t.resp, t.dec))
      (step (offered .irq (.op (encode .decReset))
        (withLoneEvents (receiving { Decoder.zero with ongoing := true })))) =
      some (.nothing, Decoder.zero) ∧
    view (fun t => (t.resp, t.dec.ongoing))
      (step (offered .irq (.op (encode .decReset)) (receiving { Decoder.zero with ongoing := true }))) =
      some (.noStep, true) := by decide

/-- R106: how many ticks the run of one frame is, and R199 in a read-back tick of it. -/
theorem test_step_txrun :
    view (fun t => (t.irqIn.length, t.irqIn.head?))
      (step (offered .irq (.pseudo (.phyTxrun 1)) (sending 18 false))) = some (44, some .txrunTick) ∧
    view (fun t => (t.phy.txBitCur, t.phy.collate, t.resp))
      (step (offered .irq .txrunTick (sending 18 true))) = some (19, false, .status .ok) := by decide

/-- R196 -/
theorem test_step_held :
    view (·.resp) (step { sending 0 false with sched := [.fg] }) = some .held ∧
    view (fun t => (t.resp, t.fg)) (step { idle with fg := [.write false], sched := [.fg] }) =
      some (.status .ok, []) := by decide

/-! ## States and operands that meet the hypotheses of the statements

Each theorem `meets_<Statement>` gives, clause by clause, values at which all the hypotheses of that clause
hold together. Statements without hypotheses have none. -/

/-- A buffer of two-byte elements, with its indices. -/
def wideBuffer (rd wr : Nat) : State := { idle with fifo := ⟨1, 2, [(0, 1), (1, 2)], rd, wr, true⟩ }

/-- R132 with no element for a buffer of two-byte elements: all but the element is as for one of two bytes. R101
with a byte in `arg`, unused there. -/
theorem test_fifo_push_other_size :
    view (fun t => (t.resp, t.fifo.wr, t.freeCtr)) (exec (.fifoPush 0 []) (wideBuffer 0 0)) =
      some (.status .ok, 1, 1) ∧
    exec (.fifoPush 5 []) (wideBuffer 0 0) matches .refused (.invalidWord (.unusedArgBits 0x01 5)) := by decide

/-- A clean frame of 0x10 up to its last sample. -/
def lastSample (flags : Byte) : Decoder := ⟨true, false, true, 21, 0, 0x10, flags⟩

/-- The decoder before the sample of number `n`, an even number outside the stuffing samples. -/
def beforeSample (n : BitVec 5) (cnt : BitVec 3) : Decoder := ⟨true, false, n.getLsbD 0, n, cnt, 0, 0⟩

theorem meets_FifoInitConstructsOrFails :
    idle.fifo.valid = true ∧
    (State.reset.fifo.valid = false ∧ (0xFFFFFFFF : Size).toNat = Config.sizeMax) ∧
    (State.reset.fifo.valid = false ∧ (0 : Size).toNat = 0) ∧
    (State.reset.fifo.valid = false ∧
      ((0x7FFFFFFF : Size).toNat + 1) * (2 : Size).toNat > Config.sizeMax) ∧
    (State.reset.fifo.valid = false ∧
      ¬ ((0xFFFFFFFE : Size).toNat = Config.sizeMax ∨ (1 : Size).toNat = 0 ∨
        ((0xFFFFFFFE : Size).toNat + 1) * (1 : Size).toNat > Config.sizeMax)) := by decide

theorem meets_FifoPushStoresInSlot :
    ((buffered [] 0 3).fifo.valid = true ∧ (buffered [] 0 3).fifo.wr ≤ (buffered [] 0 3).fifo.cap ∧
      cellsWf (buffered [] 0 3).fifo.store = true ∧ (buffered [] 0 3).fifo.esz = 1 ∧
      ((buffered [] 0 3).fifo.wr + 1) % ((buffered [] 0 3).fifo.cap + 1) = (buffered [] 0 3).fifo.rd) ∧
    ((wideBuffer 0 0).fifo.valid = true ∧ (wideBuffer 0 0).fifo.wr ≤ (wideBuffer 0 0).fifo.cap ∧
      cellsWf (wideBuffer 0 0).fifo.store = true ∧ (wideBuffer 0 0).fifo.esz ≠ 1 ∧
      ([3, 4] : List Byte).length = (wideBuffer 0 0).fifo.esz ∧
      ((wideBuffer 0 0).fifo.wr + 1) % ((wideBuffer 0 0).fifo.cap + 1) ≠ (wideBuffer 0 0).fifo.rd) ∧
    ((wideBuffer 0 0).fifo.esz ≠ 1 ∧ (5 : Byte) ≠ 0) ∧
    ((wideBuffer 0 0).fifo.esz ≠ 1 ∧ (0 : Byte) = 0 ∧ ([] : List Byte).length ≠ (wideBuffer 0 0).fifo.esz) ∧
    ((buffered [] 0 3).fifo.esz = 1 ∧ ([3, 4] : List Byte) ≠ [] ∧
      ((buffered [] 0 3).fifo.wr + 1) % ((buffered [] 0 3).fifo.cap + 1) = (buffered [] 0 3).fifo.rd) := by
  decide

theorem meets_FifoPopTakesOldest_and_FifoPeekLeavesState :
    ((buffered [] 3 3).fifo.valid = true ∧ (buffered [] 3 3).fifo.rd ≤ (buffered [] 3 3).fifo.cap ∧
      (buffered [] 3 3).fifo.rd = (buffered [] 3 3).fifo.wr) ∧
    ((buffered [] 3 0).fifo.valid = true ∧ (buffered [] 3 0).fifo.rd ≤ (buffered [] 3 0).fifo.cap ∧
      (buffered [] 3 0).fifo.rd ≠ (buffered [] 3 0).fifo.wr) := by decide

theorem meets_FifoReadnReturnsOldest_and_FifoCapAndLenAnswer :
    (buffered [] 2 1).fifo.valid = true ∧ (buffered [] 2 1).fifo.rd ≤ (buffered [] 2 1).fifo.cap ∧
    3 ≤ (buffered [] 2 1).fifo.cap ∧
    ((buffered [] 2 1).fifo.rd + 3) % ((buffered [] 2 1).fifo.cap + 1) = (buffered [] 2 1).fifo.wr := by
  decide

theorem meets_FifoReadnIsTwoCopies :
    (buffered [] 2 1).fifo.rd ≤ (buffered [] 2 1).fifo.cap ∧ 3 ≤ fifoLength (buffered [] 2 1).fifo := by
  decide

theorem meets_FifoClearEmpties_and_FifoFreeInvalidates :
    ((buffered [] 2 1).fifo.valid = true ∧ (buffered [] 2 1).fifo.rd ≠ (buffered [] 2 1).fifo.wr) ∧
    ((buffered [] 2 2).fifo.valid = true ∧ (buffered [] 2 2).fifo.rd = (buffered [] 2 2).fifo.wr) := by
  decide

theorem buffered_fifoInv {rd wr : Nat} (hr : rd ≤ 3) (hw : wr ≤ 3) : fifoInv (buffered [] rd wr).fifo :=
  fun _ => ⟨Nat.le_refl _, show (3 + 1) * 1 ≤ Config.sizeMax by decide, hr, hw⟩

theorem meets_FifoRefinesBoundedQueue :
    (fifoInv (buffered [] 0 3).fifo ∧ (buffered [] 0 3).fifo.valid = true ∧
      cellsWf (buffered [] 0 3).fifo.store = true ∧ (buffered [] 0 3).fifo.esz = 1 ∧
      (fifoContents (buffered [] 0 3).fifo).length = (buffered [] 0 3).fifo.cap) ∧
    (fifoInv (buffered [] 0 0).fifo ∧ (fifoContents (buffered [] 0 0).fifo).length <
      (buffered [] 0 0).fifo.cap ∧ fifoContents (buffered [] 0 0).fifo = []) ∧
    fifoContents (buffered [(3, 9)] 3 0).fifo = [9] :: [] :=
  ⟨⟨buffered_fifoInv (by decide) (by decide), by decide⟩,
    ⟨buffered_fifoInv (by decide) (by decide), by decide⟩, by decide⟩

theorem meets_DecStartBeginsOrRejects_and_DecEdgeReleasesOrRejects :
    (decoding ⟨true, true, true, 1, 0, 0, 0⟩).dec.ongoing = true ∧
    (decoding ⟨true, true, true, 1, 0, 0, 0⟩).dec.expectingEdge = true ∧ idle.dec.ongoing = false := by
  decide

theorem meets_DecSampleByPosition :
    (decoding (beforeSample 20 0)).dec.ongoing = true ∧
    (decoding (beforeSample 20 0)).dec.expectingEdge = false ∧
    (decoding (beforeSample 20 0)).dec.totalCnt.toNat < 21 ∧
    ((beforeSample 19 0).expectingOffduty = true ∧ (beforeSample 19 0).totalCnt.toNat < 21) ∧
    ((beforeSample 0 0).expectingOffduty = false ∧ (beforeSample 0 0).totalCnt.toNat / 2 = 0) ∧
    ((beforeSample 2 0).expectingOffduty = false ∧ 1 ≤ (beforeSample 2 0).totalCnt.toNat / 2) ∧
    ((beforeSample 16 7).expectingOffduty = false ∧ (beforeSample 16 7).totalCnt.toNat / 2 ≤ 8) ∧
    ((beforeSample 18 0).expectingOffduty = false ∧ (beforeSample 18 0).totalCnt.toNat / 2 = 9) ∧
    ((beforeSample 20 0).expectingOffduty = false ∧ (beforeSample 20 0).totalCnt.toNat / 2 = 10) := by
  decide

theorem meets_DecLastSampleReportsFrame :
    (decoding (lastSample 0)).dec.ongoing = true ∧ (decoding (lastSample 0)).dec.expectingEdge = false ∧
    (decoding (lastSample 0)).dec.totalCnt = 21 ∧
    (decoding (lastSample 0)).dec.expectingOffduty = true := by decide

theorem zero_decInv : DecInv Decoder.zero :=
  ⟨fun _ => rfl, rfl, (fun h => nomatch h), (fun h => nomatch h), by decide, rfl⟩

theorem meets_DecoderInvariantsKept :
    DecInv idle.dec ∧ ∃ t, exec .decStart idle = .next t :=
  ⟨zero_decInv, _, rfl⟩

theorem meets_AnyFrameDecodesToByteAndFlags_and_FormattedByteDecodesBack : idle.dec.ongoing = false := by
  decide

theorem meets_FlippedSamplesSetTheirFlags :
    idle.dec.ongoing = false ∧
    ∀ i, i < 8 → (fun n => n == 0 || n == 18 || n == 20 || n == 21) (2 * i + 2) = false := by decide

/-- A machine not initialised whose `FIFO_CAP` cannot be constructed. -/
def hugeFifo : State :=
  { State.reset with params := { Config.defaults with fifoCap := Config.sizeMax } }

theorem meets_PhyInitInitialisesOnce :
    idle.instanceActive = true ∧
    (hugeFifo.instanceActive = false ∧ hugeFifo.fifo.valid = false ∧
      Config.sizeMax ≤ hugeFifo.params.fifoCap) ∧
    (State.reset.instanceActive = false ∧ State.reset.fifo.valid = false ∧
      State.reset.params.fifoCap < Config.sizeMax) := by decide

theorem meets_PhyTxenDrivesResetLine : idle.instanceActive = true := by decide

theorem meets_EdgeStartsFrameOrResynchronises :
    idle.instanceActive = true ∧ idle.phy.edgeIrqEnabled = true ∧ idle.dec.ongoing = false ∧
    (decoding (beforeSample 7 3)).phy.edgeIrqEnabled = true ∧
    (decoding (beforeSample 7 3)).dec.ongoing = true ∧
    (receiving (lastSample 0)).phy.edgeIrqEnabled = false := by decide

theorem meets_MaskedEventsAreNoStep :
    (idle.instanceActive = true ∧ idle.phy.timerRunning = false) ∧
    ((receiving (lastSample 0)).instanceActive = true ∧
      (receiving (lastSample 0)).phy.edgeIrqEnabled = false ∧
      (receiving (lastSample 0)).params.edgePendingOnRearm = false) := by decide

theorem meets_RxTickFeedsDecoder :
    (receiving (beforeSample 20 0)).instanceActive = true ∧
    (receiving (beforeSample 20 0)).phy.timerRunning = true ∧
    (receiving (beforeSample 20 0)).phy.busState = .rx ∧
    (receiving (beforeSample 20 0)).dec.ongoing = true ∧
    (receiving (beforeSample 20 0)).dec.expectingEdge = false ∧
    (receiving (beforeSample 20 0)).dec.totalCnt ≠ 21 ∧
    (receiving ⟨true, true, true, 1, 0, 0, 0⟩).dec.expectingEdge = true := by decide

/-- The last sample in Rx, with the buffer's indices and the flags so far. -/
def completing (wr : Nat) (flags : Byte) : State :=
  { receiving (lastSample flags) with fifo := ⟨3, 1, [], 0, wr, true⟩ }

/-- The last sample in Rx, with a FIFO of two-byte elements. -/
def wideCompleting : State := { receiving (lastSample 0) with fifo := (wideBuffer 0 0).fifo }

theorem meets_FrameCompletionPushesOrCounts :
    (completing 0 0).instanceActive = true ∧ (completing 0 0).phy.timerRunning = true ∧
    (completing 0 0).phy.busState = .rx ∧ (completing 0 0).dec.ongoing = true ∧
    (completing 0 0).dec.expectingEdge = false ∧ (completing 0 0).dec.totalCnt = 21 ∧
    (completing 0 0).dec.expectingOffduty = true ∧ fifoInv (completing 0 0).fifo ∧
    (completing 0 0).fifo.valid = true ∧ (completing 0 0).fifo.esz = 1 ∧
    cellsWf (completing 0 0).fifo.store = true ∧
    (fifoContents (completing 0 0).fifo).length < (completing 0 0).fifo.cap ∧
    (wideCompleting.fifo.valid = true ∧ wideCompleting.fifo.esz = 2 ∧ fifoInv wideCompleting.fifo ∧
      (fifoContents wideCompleting.fifo).length < wideCompleting.fifo.cap) ∧
    (fifoInv (completing 3 0).fifo ∧
      (fifoContents (completing 3 0).fifo).length = (completing 3 0).fifo.cap) ∧
    (if false then (completing 0 0x02).dec.errorFlags else (completing 0 0x02).dec.errorFlags ||| 0x08) ≠
      (0 : Byte) :=
  ⟨by decide, by decide, by decide, by decide, by decide, by decide, by decide,
    buffered_fifoInv (by decide) (by decide), by decide, by decide, by decide, by decide,
    ⟨by decide, by decide, fun _ => by decide, by decide⟩,
    ⟨buffered_fifoInv (by decide) (by decide), by decide⟩, by decide⟩

theorem meets_PhyReadPopsOneByte :
    ((buffered [] 3 0).instanceActive = true ∧ (buffered [] 3 0).fifo.valid = true ∧
      (buffered [] 3 0).fifo.esz = 1 ∧ (buffered [] 3 0).fifo.rd ≤ (buffered [] 3 0).fifo.cap ∧
      (buffered [] 3 0).fifo.rd ≠ (buffered [] 3 0).fifo.wr) ∧
    idle.fifo.rd = idle.fifo.wr := by decide

theorem meets_ReceivedFrameReachesFifo :
    idle.instanceActive = true ∧ idle.phy.busState = .idle ∧ idle.phy.edgeIrqEnabled = true ∧
    idle.dec = Decoder.zero ∧ fifoInv idle.fifo ∧ idle.fifo.valid = true ∧ idle.fifo.esz = 1 ∧
    cellsWf idle.fifo.store = true ∧ (fifoContents idle.fifo).length < idle.fifo.cap ∧
    (fifoInv (buffered [] 0 3).fifo ∧
      (fifoContents (buffered [] 0 3).fifo).length = (buffered [] 0 3).fifo.cap) :=
  ⟨by decide, by decide, by decide, by decide, buffered_fifoInv (by decide) (by decide), by decide,
    by decide, by decide, by decide, buffered_fifoInv (by decide) (by decide), by decide⟩

theorem meets_WriteChecksOperandsFirst :
    idle.instanceActive = true ∧ idle.params.txbufCap < 260 ∧
    (0 < 259 ∧ 259 ≤ (receiving (lastSample 0)).params.txbufCap ∧
      (some [] : Option (List Byte)) ≠ none ∧ (receiving (lastSample 0)).instanceActive = true ∧
      (receiving (lastSample 0)).phy.busState ≠ .idle) ∧
    (259 ≤ idle.params.txbufCap ∧ idle.phy.busState = .idle) := by decide

/-- After the check of a `PHY.WRITE` of one byte, given a length of 259. -/
def checked (s : State) : State :=
  { s with fg := [.writeBegin (some [0xA5]) 259 false], sched := [.fg] }

theorem meets_WriteBeginsTransmission :
    edgeDeliverable (checked idle) = false ∧ (checked idle).sched = .fg :: [] ∧
    (checked idle).fg = .writeBegin (some [0xA5]) 259 false :: [] ∧
    259 ≤ (checked idle).params.txbufCap ∧ (checked idle).phy.busState = .idle ∧
    cellsWf (checked idle).phy.txbuf = true ∧
    (edgeDeliverable (checked (receiving (lastSample 0))) = false ∧
      (checked (receiving (lastSample 0))).phy.busState ≠ .idle) := by decide

theorem meets_WaitHoldsForegroundInTx :
    (edgeDeliverable { sending 0 false with sched := [.fg] } = false ∧
      (sending 0 false).fg = .write false :: [] ∧ (sending 0 false).phy.busState = .tx) ∧
    (edgeDeliverable { idle with fg := [.write true], sched := [.fg] } = false ∧
      idle.phy.busState ≠ .tx) := by decide

theorem meets_TxDriveTickDrivesBit :
    (sending 0 false).instanceActive = true ∧ (sending 0 false).phy.timerRunning = true ∧
    (sending 0 false).phy.busState = .tx ∧ (sending 0 false).phy.collate = false ∧
    (sending 0 false).phy.txByteCur < (sending 0 false).params.txbufCap := by decide

/-- The read-back phase of the last bit of the first of two words. -/
def betweenWords : State :=
  { sending 21 true with phy := { (sending 21 true).phy with txLen := 2 } }

theorem meets_TxReadBackTickAdvances :
    (sending 20 true).instanceActive = true ∧ (sending 20 true).phy.timerRunning = true ∧
    (sending 20 true).phy.busState = .tx ∧ (sending 20 true).phy.collate = true ∧
    (sending 20 true).phy.txBitCur.toNat < 21 ∧
    (betweenWords.phy.txBitCur.toNat = 21 ∧ betweenWords.phy.collate = true ∧
      betweenWords.phy.txByteCur + 1 ≠ betweenWords.phy.txLen) ∧
    ((sending 21 true).phy.txBitCur.toNat = 21 ∧
      (sending 21 true).phy.txByteCur + 1 = (sending 21 true).phy.txLen) := by decide

theorem meets_ReadBackLevelsHaveNoEffect :
    (sending 0 false).phy.busState = .tx ∧ [true, false].length = [false, false].length := by decide

theorem meets_WriteShiftsOutEveryFrame :
    idle.instanceActive = true ∧ idle.phy.busState = .idle ∧ ([0xA5, 0x00] : List Byte) ≠ [] ∧
    ([0xA5, 0x00] : List Byte).length ≤ idle.params.txbufCap ∧ cellsWf idle.phy.txbuf = true ∧
    (List.replicate 88 true).length ≤ 44 * ([0xA5, 0x00] : List Byte).length := by decide

/-- In no stack of `idle` is a payload part way. -/
theorem idle_framerInv (n : Nat) : framerInv (idle.framer n) := by
  cases n <;> exact fun h => nomatch h

theorem idle_blockInv : BlockInv idle where
  memory := by decide
  fifo := buffered_fifoInv (by decide) (by decide)
  decoder := zero_decInv
  bus :=
    { legal := fun _ => .inl rfl
      before := fun h => nomatch h
      timer := by decide
      edge := by decide
      frame := fun _ _ => by unfold rxMatchesDecoder; decide
      cursors := fun h => nomatch h
      phase := fun _ => rfl
      heldInTx := fun h => nomatch h }
  framer := idle_framerInv
  line :=
    { idleHigh := fun _ _ => rfl
      highBeforeFirstDrive := fun h => nomatch h
      drivenBit := fun h => nomatch h
      lastSampleHigh := fun h => nomatch h }

theorem receiving_blockInv : BlockInv (receiving (lastSample 0x02)) where
  memory := by decide
  fifo := buffered_fifoInv (by decide) (by decide)
  decoder := ⟨(fun h => nomatch h), by decide, by decide, by decide, by decide, by decide⟩
  bus :=
    { legal := fun _ => .inr (.inl rfl)
      before := fun h => nomatch h
      timer := by decide
      edge := by decide
      frame := fun _ _ => by unfold rxMatchesDecoder; decide
      cursors := fun h => nomatch h
      phase := fun _ => rfl
      heldInTx := fun h => nomatch h }
  framer := idle_framerInv
  line :=
    { idleHigh := fun _ _ => rfl
      highBeforeFirstDrive := fun h => nomatch h
      drivenBit := fun h => nomatch h
      lastSampleHigh := fun h => nomatch h }

theorem sending_blockInv : BlockInv (sending 21 true) where
  memory := by decide
  fifo := buffered_fifoInv (by decide) (by decide)
  decoder := zero_decInv
  bus :=
    { legal := fun _ => .inr (.inr rfl)
      before := fun h => nomatch h
      timer := by decide
      edge := by decide
      frame := fun _ _ => by unfold rxMatchesDecoder; decide
      cursors := fun _ => by decide
      phase := fun h => absurd rfl h
      heldInTx := fun _ => ⟨false, [], rfl⟩ }
  framer := idle_framerInv
  line :=
    { idleHigh := fun _ h => absurd rfl h
      highBeforeFirstDrive := fun _ _ h => nomatch h
      drivenBit := fun _ _ => by decide
      lastSampleHigh := fun _ j hj => by
        obtain rfl : j = 0 := by
          have : (sending 21 true).phy.txLen = 1 := rfl
          omega
        decide }

theorem meets_TicksLeadBackToIdle :
    (BlockInv (receiving (lastSample 0x02)) ∧
      (receiving (lastSample 0x02)).instanceActive = true ∧
      (receiving (lastSample 0x02)).fifo.valid = true ∧
      (receiving (lastSample 0x02)).phy.busState = .rx ∧ rxMatchesDecoder (receiving (lastSample 0x02))) ∧
    (BlockInv (sending 21 true) ∧
      (sending 21 true).instanceActive = true ∧ (sending 21 true).fifo.valid = true ∧
      (sending 21 true).phy.busState = .tx) :=
  ⟨⟨receiving_blockInv, by unfold rxMatchesDecoder; decide⟩, sending_blockInv, by decide⟩

theorem meets_RxbyteAdvancesReceiveMachine :
    (idle.framer 0).constructed = true ∧ FgFrame.recvCb 0 ∉ idle.fg ∧ (idle.framer 0).rxState = .waitSelf ∧
    ((framing .waitDest 0).framer 0).rxState = .waitDest ∧ ((framing .waitOp 0).framer 0).rxState = .waitOp ∧
    (((framing .waitLen 0).framer 0).rxState = .waitLen ∧ (1 : Byte) ≠ 0) ∧
    (((framing .waitData 0).framer 0).rxState = .waitData ∧
      cellsWf ((framing .waitData 0).framer 0).pktData = true ∧
      ((framing .waitData 0).framer 0).dataCnt.toNat + 1 < ((framing .waitData 0).framer 0).pktLen.toNat) := by
  decide

/-- A packet with one payload byte of two, for this address. -/
def addressedHere : State :=
  { framing .waitData 1 with
    framers := [{ (framing .waitData 1).framer 0 with pktDest := 0x05, pktData := [(0, 0xAA)] }] }

theorem meets_LastByteDeliversPacket :
    ((addressedHere.framer 0).constructed = true ∧ FgFrame.recvCb 0 ∉ addressedHere.fg ∧
      cellsWf (addressedHere.framer 0).pktData = true ∧ (addressedHere.framer 0).rxState = .waitData ∧
      (addressedHere.framer 0).dataCnt.toNat + 1 = (addressedHere.framer 0).pktLen.toNat ∧
      cellReadAll (addressedHere.framer 0).pktData 0 (addressedHere.framer 0).dataCnt.toNat ++ [0xBB] =
        ([0xAA, 0xBB] : List Byte) ∧
      (addressedHere.framer 0).rxCb = some 7 ∧
      (addressedHere.framer 0).pktDest = (addressedHere.framer 0).ownAddr) ∧
    (((framing .waitLen 0).framer 0).rxState = .waitLen ∧ ((framing .waitLen 0).framer 0).constructed = true ∧
      ((framing .waitLen 0).framer 0).pktDest ≠ ((framing .waitLen 0).framer 0).ownAddr) := by decide

theorem meets_CallbackReturnEndsOperation :
    edgeDeliverable (offered .fg (.cbReturn .ok) { idle with fg := [.sendCb] }) = false ∧
    (offered .fg (.cbReturn .ok) { idle with fg := [.sendCb] }).sched = .fg :: [] ∧
    (offered .fg (.cbReturn .ok) { idle with fg := [.sendCb] }).fgIn = .cbReturn .ok :: [] ∧
    (offered .fg (.cbReturn .ok) { idle with fg := [.recvCb 0] }).fg = .recvCb 0 :: [] ∧
    (offered .fg (.cbReturn .userFn) { idle with fg := [.recvCb 0, .rxbuf 0 [] false] }).fg =
      .recvCb 0 :: .rxbuf 0 [] false :: [] := by decide

theorem meets_SendSerialisesIntoOneCall :
    (((sender .absent).framer 0).constructed = true ∧ 0 < (1 : Byte).toNat ∧ (0 : Byte).toNat = 0 ∧
      ((sender .absent).framer 0).txCb = .absent) ∧
    (((sender (.user 4)).framer 0).constructed = true ∧ ((sender (.user 4)).framer 0).txCb = .user 4 ∧
      (some [1, 2, 3] : Option (List Byte)) ≠ none) := by decide

/-- The reference integration with the largest transmit buffer given. -/
def integrated (cap : Nat) : State :=
  { sender .phyWrite with params := { Config.defaults with txbufCap := cap } }

theorem meets_SendThroughPhyWrite :
    (((integrated 7).framer 0).constructed = true ∧ ((integrated 7).framer 0).txCb = .phyWrite ∧
      (some [1, 2, 3] : Option (List Byte)) ≠ none ∧ cellsWf (integrated 7).phy.txbuf = true ∧
      (integrated 7).instanceActive = true ∧ 4 + (3 : Byte).toNat ≤ (integrated 7).params.txbufCap ∧
      (integrated 7).phy.busState = .idle) ∧
    (integrated 6).params.txbufCap < 4 + (3 : Byte).toNat ∧
    { integrated 7 with instanceActive := false }.instanceActive = false ∧
    { integrated 7 with phy := (receiving (lastSample 0)).phy }.phy.busState ≠ .idle := by decide

theorem meets_PacketBytesDeliverOnce_and_SentPacketIsDelivered :
    ((sender (.user 4)).framer 0).constructed = true ∧ ((sender (.user 4)).framer 0).txCb = .user 4 ∧
    (idle.framer 0).constructed = true ∧ FgFrame.recvCb 0 ∉ idle.fg ∧ cellsWf (idle.framer 0).pktData = true ∧
    (idle.framer 0).rxState = .waitSelf ∧ (idle.framer 0).rxCb = some 7 ∧
    (idle.framer 0).ownAddr = 0x05 ∧ (0x06 : Byte) ≠ (idle.framer 0).ownAddr ∧
    (List.replicate 255 (0x5A : Byte)).length ≤ 255 :=
  ⟨by decide, by decide, by decide, by decide, by decide, by decide, by decide, by decide, by decide,
    Nat.le_of_eq List.length_replicate⟩

/-- The turns of the foreground part way through the pseudo-operation given. -/
def inside (f : FgFrame) (s : State) : State := { s with fg := [f], sched := [.fg] }

theorem meets_PseudoOperationsAndWireFormatsExpand :
    (edgeDeliverable (offered .irq (.pseudo (.decFeed 0xA5)) idle) = false ∧
      (offered .irq (.pseudo (.decFeed 0xA5)) idle).sched = .irq :: [] ∧
      (offered .irq (.pseudo (.decFeed 0xA5)) idle).irqIn = .pseudo (.decFeed 0xA5) :: []) ∧
    (edgeDeliverable (offered .irq (.pseudo (.phyTxrun 1)) (sending 20 false)) = false ∧
      (offered .irq (.pseudo (.phyTxrun 1)) (sending 20 false)).irqIn = .pseudo (.phyTxrun 1) :: []) ∧
    (edgeDeliverable (offered .irq .txrunTick (sending 21 true)) = false ∧
      (offered .irq .txrunTick (sending 21 true)).irqIn = .txrunTick :: [] ∧
      (offered .irq .txrunTick (sending 21 true)).phy.busState = .tx ∧
      (offered .irq .txrunTick (sending 21 true)).phy.collate = true) ∧
    ((offered .fg (.pseudo (.pktRxbuf 0 [1])) idle).fgIn = .pseudo (.pktRxbuf 0 [1]) :: [] ∧
      (offered .fg (.pseudo (.pktPoll 0)) idle).fgIn = .pseudo (.pktPoll 0) :: [] ∧
      (offered .fg (.pseudo (.pktPoll 0)) idle).fg = []) ∧
    ((inside (.rxbuf 0 [1, 2] false) idle).fg = .rxbuf 0 (1 :: [2]) false :: [] ∧
      (inside (.rxbuf 0 [] true) idle).fg = .rxbuf 0 [] true :: [] ∧
      (inside (.poll 0 (some 1)) idle).fg = .poll 0 (some 1) :: [] ∧
      (inside (.poll 0 none) idle).fg = .poll 0 none :: [] ∧
      edgeDeliverable (inside (.poll 0 none) idle) = false ∧
      (inside (.poll 0 none) idle).fifo.rd = (inside (.poll 0 none) idle).fifo.wr) ∧
    ((inside (.poll 0 none) (buffered [] 3 0)).instanceActive = true ∧
      (inside (.poll 0 none) (buffered [] 3 0)).fifo.valid = true ∧
      (inside (.poll 0 none) (buffered [] 3 0)).fifo.esz = 1 ∧
      (inside (.poll 0 none) (buffered [] 3 0)).fifo.rd ≤
        (inside (.poll 0 none) (buffered [] 3 0)).fifo.cap ∧
      (inside (.poll 0 none) (buffered [] 3 0)).fifo.rd ≠
        (inside (.poll 0 none) (buffered [] 3 0)).fifo.wr) := by decide

theorem meets_DecodeReadsBackEncode :
    (Instr.fifoPush 0 [1, 2]).wf = true ∧ (Instr.fifoPush 0xFF []).wf = true := by decide

theorem meets_EncodeReadsBackDecode :
    decode ⟨.fmtword, 0x003EAAAE, {}⟩ = .ok (.fmtword 0x01 true) := by rfl

theorem meets_UnlistedWordsAreInvalid :
    ((0x32 : Byte) ∈ ([0x00, 0x03, 0x04, 0x05, 0x06, 0x07, 0x08, 0x10, 0x11, 0x13, 0x14, 0x20, 0x22, 0x23,
      0x24, 0x32] : List Byte) ∧ (1 : Byte) ≠ 0) ∧
    ((0x25 : Byte) ∈ ([0x02, 0x12, 0x21, 0x25] : List Byte) ∧ 1 < (2 : Byte).toNat) ∧
    ¬ ((0x09 : Byte).toNat ≤ 0x08 ∨ 0x10 ≤ (0x09 : Byte).toNat ∧ (0x09 : Byte).toNat ≤ 0x14 ∨
      0x20 ≤ (0x09 : Byte).toNat ∧ (0x09 : Byte).toNat ≤ 0x26 ∨
      0x30 ≤ (0x09 : Byte).toNat ∧ (0x09 : Byte).toNat ≤ 0x32) ∧
    ¬ ((0x33 : Byte).toNat ≤ 0x08 ∨ 0x10 ≤ (0x33 : Byte).toNat ∧ (0x33 : Byte).toNat ≤ 0x14 ∨
      0x20 ≤ (0x33 : Byte).toNat ∧ (0x33 : Byte).toNat ≤ 0x26 ∨
      0x30 ≤ (0x33 : Byte).toNat ∧ (0x33 : Byte).toNat ≤ 0x32) ∧
    (edgeDeliverable (offered .irq (.op ⟨.opw, 0x0900, {}⟩) idle) = false ∧
      decode ⟨.opw, 0x0900, {}⟩ matches .error (.unknownOperation 0x09) ∧
      (offered .irq (.op ⟨.opw, 0x0900, {}⟩) idle).sched = .irq :: [] ∧
      (offered .fg (.op ⟨.opw, 0x0900, {}⟩) { idle with fg := [.recvCb 0] }).fg = .recvCb 0 :: []) ∧
    ((wideBuffer 0 0).fifo.valid = true ∧ (wideBuffer 0 0).fifo.esz ≠ 1 ∧ (1 : Byte) ≠ 0) := by
  decide

theorem meets_StepRunsDecodedOperation :
    (edgeDeliverable (offered .irq (.op (encode (.phyTick true))) idle) = false ∧
      decode (encode (.phyTick true)) matches .ok (.phyTick true) ∧
      (offered .irq (.op (encode (.phyTick true))) idle).sched = .irq :: [] ∧
      (offered .irq (.op (encode (.phyTick true))) idle).irqIn = .op (encode (.phyTick true)) :: [] ∧
      (Instr.phyTick true).performer ≠ .fgOnly ∧ isDecoderEvent (.phyTick true) = false) ∧
    ((isDecoderEvent .decStart = true ∧ idle.instanceActive = true ∧
        idle.params.loneDecoderEvents = false ∧ edgeDeliverable (offered .irq (.op (encode .decStart)) idle) = false ∧
        (offered .irq (.op (encode .decStart)) idle).irqIn = .op (encode .decStart) :: []) ∧
      view (·.dec.ongoing) (exec .decStart idle) = some true ∧ idle.dec.ongoing = false ∧
      decode (encode .decStart) matches .ok .decStart ∧ Instr.decStart.performer ≠ .fgOnly) ∧
    (decode (encode .phyRead) matches .ok .phyRead ∧
      (offered .fg (.op (encode .phyRead)) { idle with fg := [.recvCb 0] }).sched = .fg :: [] ∧
      Instr.phyRead.performer ≠ .irqOnly) := by decide

theorem meets_WrongAgentIsRefused :
    (edgeDeliverable (offered .irq (.op (encode .phyRead)) idle) = false ∧
      (offered .irq (.op (encode .phyRead)) idle).sched = .irq :: [] ∧
      Instr.phyRead.performer = .fgOnly) ∧
    ((offered .fg (.op (encode .decStart)) idle).sched = .fg :: [] ∧
      Instr.decStart.performer = .irqOnly ∧ (offered .fg (.op (encode .decStart)) idle).fg = [] ∧
      (offered .fg (.op (encode .decStart)) { idle with fg := [.sendCb] }).fg = .sendCb :: []) ∧
    (Instr.phyRead.format = .opw ∧ (Instr.frame22 0).format = .frame22 ∧
      (Instr.pkthdr ⟨0, 0⟩ 0 0 0).format = .pkthdr) := by decide

/-- In Rx, where the external detector remembers edges. -/
def rememberingEdges : State :=
  { receiving (lastSample 0) with params := { Config.defaults with edgePendingOnRearm := true } }

/-- Idle, with an edge that the external detector has remembered. -/
def edgeRemembered : State := { idle with phy := { idle.phy with edgePending := true } }

theorem meets_RememberedEdgeStartsFrameAtOnce :
    edgeRemembered.instanceActive = true ∧ edgeRemembered.phy.edgePending = true ∧
    edgeRemembered.phy.edgeIrqEnabled = true ∧ edgeRemembered.dec.ongoing = false ∧
    (rememberingEdges.instanceActive = true ∧ rememberingEdges.phy.edgeIrqEnabled = false ∧
      rememberingEdges.params.edgePendingOnRearm = true) := by decide

/-- The last sample of a clean frame in Rx, with the FIFO given. -/
def completingInto (f : Fifo) : State := { receiving (lastSample 0) with fifo := f }

theorem meets_OperationsBeforeInitRefused :
    ((completingInto Fifo.unconstructed).instanceActive = true ∧
      (completingInto Fifo.unconstructed).phy.timerRunning = true ∧
      (completingInto Fifo.unconstructed).phy.busState = .rx ∧
      (completingInto Fifo.unconstructed).dec.ongoing = true ∧
      (completingInto Fifo.unconstructed).dec.expectingEdge = false ∧
      (completingInto Fifo.unconstructed).dec.totalCnt = 21 ∧
      (completingInto Fifo.unconstructed).dec.expectingOffduty = true ∧
      (completingInto Fifo.unconstructed).dec.errorFlags = 0 ∧
      (completingInto Fifo.unconstructed).fifo.valid = false) ∧
    ({ idle with phy := { idle.phy with timerRunning := true } }.instanceActive = true ∧
      idle.phy.busState ≠ .rx ∧ idle.phy.busState ≠ .tx) ∧
    State.reset.fifo.valid = false ∧ State.reset.instanceActive = false ∧
    (State.reset.framer 0).constructed = false ∧
    ({ State.reset with fifo := idle.fifo }.fifo.valid = true ∧
      { State.reset with fifo := idle.fifo }.instanceActive = false) ∧
    idle.fifo.valid = true ∧
    ((idle.framer 0).constructed = true ∧ FgFrame.recvCb 0 ∈ { idle with fg := [.recvCb 0] }.fg) := by decide

/-- The inputs offered are no part of the invariants. -/
theorem offered_blockInv {s : State} (c : Code) (h : BlockInv s) : BlockInv (offered .irq (.op c) s) :=
  ⟨h.memory, h.fifo, h.decoder,
    ⟨h.bus.legal, h.bus.before, h.bus.timer, h.bus.edge, h.bus.frame, h.bus.cursors, h.bus.phase, h.bus.heldInTx⟩,
    h.framer,
    ⟨h.line.idleHigh, h.line.highBeforeFirstDrive, h.line.drivenBit, h.line.lastSampleHigh⟩⟩

theorem meets_EveryStepKeepsInvariants_and_NoStepFaults :
    (BlockInv (offered .irq (.op (encode .phyEdgeirq)) idle) ∧
      rxMatchesDecoder (offered .irq (.op (encode .phyEdgeirq)) idle) ∧
      ∃ t, step (offered .irq (.op (encode .phyEdgeirq)) idle) = .next t) ∧
    (BlockInv (offered .irq (.op (encode (.phyTick true))) (sending 21 true)) ∧
      ∃ t, step (offered .irq (.op (encode (.phyTick true))) (sending 21 true)) = .next t) :=
  ⟨⟨offered_blockInv _ idle_blockInv, by unfold rxMatchesDecoder; decide, _, rfl⟩,
    offered_blockInv _ sending_blockInv, _, rfl⟩

theorem meets_FrameInProgressExactlyInRx :
    (isDecoderEvent .phyEdgeirq = false ∧ BusInv idle ∧ rxMatchesDecoder idle ∧
      ∃ t, exec .phyEdgeirq idle = .next t) ∧
    (State.reset.instanceActive = false ∧
      ∃ t, exec .phyInit State.reset = .next t ∧ t.instanceActive = true) ∧
    (isDecoderEvent .decStart = true ∧ ∃ t, exec .decStart idle = .next t) :=
  ⟨⟨rfl, idle_blockInv.bus, by unfold rxMatchesDecoder; decide, _, rfl⟩, ⟨rfl, _, rfl, rfl⟩, rfl, _, rfl⟩

theorem meets_AgentsWriteOnlyTheirOwnState :
    (Instr.phyEdgeirq.performer = .irqOnly ∧ ∃ t, exec .phyEdgeirq idle = .next t) ∧
    (Instr.phyRead.performer = .fgOnly ∧ Instr.phyRead ≠ .phyInit ∧
      ∃ t, exec .phyRead idle = .next t) ∧
    (idle.instanceActive = true ∧ (∃ t, fgTurn { idle with fg := [.write false] } = .next t) ∧
      ∃ t, fgTurn (checked idle) = .next t) :=
  ⟨⟨rfl, _, rfl⟩, ⟨rfl, by decide, _, rfl⟩, rfl, ⟨_, rfl⟩, _, rfl⟩

end Sys2Proof.Tests
end

section
/-! # The invariants of the state (spec/10_state.md R23, R25, R36, R38; spec/43_phy_tx.md R202)

`exec_effect` says once what an operation can do to the units of the block, and each invariant is derived from
that by the cases of `Effect`. A step is then an operation, or a turn that writes only what the foreground is
inside of, or the begin step of `PHY.WRITE`. -/

namespace Sys2Proof.Machine

variable {s t : State} {i : Instr}

/-! ## The decoder's invariants, event by event (10_state R25) -/

theorem decInv_zero : DecInv Decoder.zero where
  idleIsZero _ := rfl
  offdutyIsOdd := rfl
  dataCount h := nomatch h
  edgeAfterSample h := nomatch h
  totalInRange := by decide
  reservedFlags := rfl

section
variable {d d' : Decoder} {r : DecResult} {b : Bool}

theorem decStart_keeps_decInv (hd : DecInv d) (h : decStart d = (r, d')) : DecInv d' := by
  obtain ⟨-, -, rfl⟩ | ⟨-, -, rfl⟩ := decStart_cases h
  · exact hd
  · exact ⟨(nomatch ·), rfl, fun _ => rfl, (nomatch ·), by decide, rfl⟩

theorem decEdge_keeps_decInv (hd : DecInv d) (h : decEdge d = (r, d')) : DecInv d' := by
  obtain ⟨-, -, rfl⟩ | ⟨ho, -, -, rfl⟩ := decEdge_cases h
  · exact hd
  · exact
      { hd with
        idleIsZero := fun h => absurd (ho.symm.trans h) (by decide)
        edgeAfterSample := fun h => nomatch h }

/-- A flag of the low nibble leaves the reserved flags at zero (30_encoding R101). -/
theorem raiseFlag_reserved {failed : Bool} {mask flags : Byte} (hm : mask.extractLsb' 4 4 = 0)
    (hf : flags.extractLsb' 4 4 = 0) : (raiseFlag failed mask flags).extractLsb' 4 4 = 0 := by
  unfold raiseFlag
  split
  · rw [BitVec.extractLsb'_or, hm, hf]; rfl
  · exact hf

theorem decLogical_reserved (k : Nat) (h : d.errorFlags.extractLsb' 4 4 = 0) :
    (decLogical b k d).errorFlags.extractLsb' 4 4 = 0 := by
  unfold decLogical
  split_ifs
  · exact raiseFlag_reserved rfl h
  · exact h
  · exact raiseFlag_reserved rfl h
  · exact raiseFlag_reserved rfl h

theorem decAbsorb_reserved (h : d.errorFlags.extractLsb' 4 4 = 0) :
    (decAbsorb b d).errorFlags.extractLsb' 4 4 = 0 := by
  unfold decAbsorb
  split_ifs
  · exact raiseFlag_reserved rfl h
  · exact decLogical_reserved _ h

theorem decLogical_dataCnt (k : Nat) :
    (decLogical b k d).dataCnt =
      if k = 0 then 0 else if k ≤ 8 then d.dataCnt + 1 else d.dataCnt := by
  unfold decLogical; split_ifs <;> rfl

/-- R25 (iii) after a sample is absorbed: the count is that of the next position. -/
theorem decAbsorb_dataCnt (hd : DecInv d) (ho : d.ongoing = true) :
    (decAbsorb b d).dataCnt.toNat = min ((d.totalCnt.toNat + 2) / 2 - 1) 8 % 8 := by
  have hcount := hd.dataCount ho
  have hparity : d.expectingOffduty = decide (d.totalCnt.toNat % 2 = 1) := by
    rw [hd.offdutyIsOdd, BitVec.getLsbD, Nat.testBit_zero]
  cases hoff : d.expectingOffduty with
  | true =>
    have hodd : d.totalCnt.toNat % 2 = 1 := by simpa [hoff] using hparity
    rw [decAbsorb_stuffing hoff, hcount]
    omega
  | false =>
    have heven : d.totalCnt.toNat % 2 = 0 := by simpa [hoff] using hparity
    rw [decAbsorb_logical hoff, decLogical_dataCnt]
    split_ifs with hfirst hdata
    · bv_omega
    · bv_omega
    · omega

/-- The advance after a sample that is not the last (R153). -/
theorem decAdvance_decInv (hd : DecInv d) (ho : d.ongoing = true) (hl : d.totalCnt ≠ 21) :
    DecInv (decAdvance (decAbsorb b d)) := by
  have hlt : d.totalCnt.toNat ≤ 20 := by
    have hle := hd.totalInRange
    have hne : d.totalCnt.toNat ≠ 21 := fun h => hl (BitVec.eq_of_toNat_eq h)
    omega
  have hongoing : (decAdvance (decAbsorb b d)).ongoing = true := by simpa [decAdvance] using ho
  have hnext : (decAdvance (decAbsorb b d)).totalCnt.toNat = d.totalCnt.toNat + 1 := by
    simp only [decAdvance, decAbsorb_totalCnt]
    bv_omega
  refine ⟨fun h => absurd (hongoing.symm.trans h) (by decide), rfl, fun _ => ?_,
    fun _ => ⟨hongoing, ?_⟩, ?_, decAbsorb_reserved hd.reservedFlags⟩
  · rw [hnext]; exact decAbsorb_dataCnt hd ho
  · omega
  · omega

theorem decSample_keeps_decInv (hd : DecInv d) (h : decSample b d = (r, d')) : DecInv d' := by
  obtain ⟨-, -, rfl⟩ | ⟨-, -, -, rfl, -⟩ | ⟨ho, -, hl, -, rfl⟩ := decSample_cases h
  · exact hd
  · exact decInv_zero
  · exact decAdvance_decInv hd ho hl

/-- A tick in Rx finishes a frame and resets the decoder, or leaves `D.ongoing` as it was (42_phy_rx R175). -/
theorem decFeedTick_result (l : Bool) (d : Decoder) :
    ((decFeedTick l d).1.finished = true ∧ (decFeedTick l d).2 = Decoder.zero) ∨
    ((decFeedTick l d).1.finished = false ∧ (decFeedTick l d).2.ongoing = d.ongoing) := by
  obtain ⟨-, hf⟩ | ⟨-, hf⟩ := decFeedTick_cases l d <;> rw [hf]
  · rcases h : decSample l d with ⟨r, d'⟩
    obtain ⟨-, rfl, rfl⟩ | ⟨-, -, -, rfl, rfl⟩ | ⟨-, -, -, rfl, rfl⟩ := decSample_cases h
    · exact .inr ⟨rfl, rfl⟩
    · exact .inl ⟨rfl, rfl⟩
    · exact .inr ⟨rfl, by simp [decAdvance]⟩
  · rcases h : decEdge d with ⟨r, d'⟩
    obtain ⟨-, rfl, rfl⟩ | ⟨-, -, rfl, rfl⟩ := decEdge_cases h
    · exact .inr ⟨rfl, rfl⟩
    · exact .inr ⟨rfl, rfl⟩

theorem decFeedTick_keeps_decInv (l : Bool) (hd : DecInv d) : DecInv (decFeedTick l d).2 := by
  obtain ⟨-, hf⟩ | ⟨-, hf⟩ := decFeedTick_cases l d <;> rw [hf]
  · exact decSample_keeps_decInv hd rfl
  · exact decEdge_keeps_decInv hd rfl

end

/-! ## The FIFO and the framers: invariant and canonical form together -/

/-- A FIFO that meets R23 and whose storage is in canonical form. -/
structure FifoOk (f : Fifo) : Prop where
  inRange : fifoInv f
  storage : cellsWf f.store = true

/-- A framer that meets R38 and whose payload array is in canonical form. -/
structure FramerOk (k : Framer) : Prop where
  count : framerInv k
  payload : cellsWf k.pktData = true

/-- The framer of every stack is as it should be. -/
def FramersOk (s : State) : Prop := ∀ n, FramerOk (s.framer n)

/-- The canonical form of the arrays, asked of the framers by handle. -/
theorem memory_wf_iff (s : State) :
    Memory.wf s = true ↔
      cellsWf s.fifo.store = true ∧ cellsWf s.phy.txbuf = true ∧
        ∀ n, cellsWf (s.framer n).pktData = true := by
  have hframers : (s.framers.all fun k => cellsWf k.pktData) = true ↔
      ∀ n, cellsWf (s.framer n).pktData = true := by
    refine ⟨fun h n => framer_of_all s (p := fun k => cellsWf k.pktData) rfl h n, fun h => ?_⟩
    refine List.all_eq_true.2 fun k hk => ?_
    obtain ⟨n, hn⟩ := List.mem_iff_getElem?.1 hk
    simpa [State.framer, hn] using h n
  rw [Memory.wf, Bool.and_eq_true, Bool.and_eq_true, hframers, and_assoc]

theorem fifoConstruct_fifoOk {c e : Nat} {f g : Fifo} {st : Status} (hf : FifoOk f)
    (h : fifoConstruct c e f = (st, g)) : FifoOk g := by
  obtain ⟨-, rfl, -⟩ | ⟨-, rfl, -, he, hsize⟩ := fifoConstruct_cases h
  · exact hf
  · exact ⟨fun _ => ⟨Nat.pos_of_ne_zero he, hsize, Nat.zero_le _, Nat.zero_le _⟩, rfl⟩

theorem fifoPush_fifoOk {elem : List Byte} {f g : Fifo} {st : Status} (hf : FifoOk f)
    (h : fifoPush elem f = .ok (st, g)) : FifoOk g := by
  refine ⟨?_, fifoPush_wf h hf.storage⟩
  obtain ⟨-, -, rfl⟩ | ⟨-, -, -, rfl⟩ := fifoPush_cases h
  · exact hf.inRange
  · intro hv
    obtain ⟨he, hsize, hr, -⟩ := hf.inRange hv
    exact ⟨he, hsize, hr, fifoNext_le _ _⟩

/-- A pop moves the read index only. -/
theorem fifoOk_advance {f : Fifo} (hf : FifoOk f) : FifoOk { f with rd := fifoNext f f.rd } := by
  refine ⟨fun hv => ?_, hf.storage⟩
  obtain ⟨he, hsize, -, hw⟩ := hf.inRange hv
  exact ⟨he, hsize, fifoNext_le _ _, hw⟩

theorem fifoOk_clear {f : Fifo} (hf : FifoOk f) : FifoOk { f with rd := f.wr } := by
  refine ⟨fun hv => ?_, hf.storage⟩
  obtain ⟨he, hsize, -, hw⟩ := hf.inRange hv
  exact ⟨he, hsize, hw, hw⟩

theorem fifoOk_release (draw : Nat) : FifoOk (fifoRelease draw) := ⟨(nomatch ·), rfl⟩

/-- A push by its operand writes the FIFO and perhaps draws a free value. -/
theorem pushElement_fifoOk {operand : Option (List Byte)} {st : Status}
    (h : pushElement operand s = .ok (st, t)) :
    ∃ f n, t = { s with fifo := f, freeCtr := n } ∧ (FifoOk s.fifo → FifoOk f) := by
  obtain ⟨_, f, -, hp, rfl⟩ | ⟨_, f, -, -, hp, rfl⟩ := pushElement_cases h
  · exact ⟨f, s.freeCtr, rfl, fun hf => fifoPush_fifoOk hf hp⟩
  · exact ⟨f, s.freeCtr + 1, rfl, fun hf => fifoPush_fifoOk hf hp⟩

theorem framersOk_setFramer {n : Nat} {k : Framer} (hs : FramersOk s) (hk : FramerOk k) :
    FramersOk (s.setFramer n k) := by
  intro m
  rw [setFramer_framer]
  split
  · exact hk
  · exact hs m

/-- A framer that is not in WaitData has nothing to count. -/
theorem framerOk_of_not_waitData {k : Framer} (hr : k.rxState ≠ .waitData)
    (hp : cellsWf k.pktData = true) : FramerOk k :=
  ⟨fun h => absurd h hr, hp⟩

/-! ## What an operation can do -/

/-- The two orchestrators agree on every field that R36 and R202 speak of. -/
structure SameBus (p q : Phy) : Prop where
  busState : q.busState = p.busState
  timerRunning : q.timerRunning = p.timerRunning
  edgeIrqEnabled : q.edgeIrqEnabled = p.edgeIrqEnabled
  txbuf : q.txbuf = p.txbuf
  txLen : q.txLen = p.txLen
  txByteCur : q.txByteCur = p.txByteCur
  txBitCur : q.txBitCur = p.txBitCur
  collate : q.collate = p.collate
  din : q.din = p.din

theorem SameBus.refl (p : Phy) : SameBus p p := ⟨rfl, rfl, rfl, rfl, rfl, rfl, rfl, rfl, rfl⟩

theorem sameBus_resetLine (p : Phy) (e l : Bool) : SameBus p { p with txEnabled := e, rstLine := l } :=
  ⟨rfl, rfl, rfl, rfl, rfl, rfl, rfl, rfl, rfl⟩

theorem sameBus_edgePending (p : Phy) (e : Bool) : SameBus p { p with edgePending := e } :=
  ⟨rfl, rfl, rfl, rfl, rfl, rfl, rfl, rfl, rfl⟩

theorem sameBus_reentrant (p : Phy) (e : Bool) (c : Counter) :
    SameBus p { p with edgePending := e, logReentrant := c } :=
  ⟨rfl, rfl, rfl, rfl, rfl, rfl, rfl, rfl, rfl⟩

theorem sameBus_countErrors (flags : Byte) (p : Phy) : SameBus p (phyCountErrors flags p) :=
  ⟨rfl, rfl, rfl, rfl, rfl, rfl, rfl, rfl, rfl⟩

theorem sameBus_countOverflow (st : Status) (p : Phy) : SameBus p (phyCountOverflow st p) :=
  ⟨rfl, rfl, rfl, rfl, rfl, rfl, rfl, rfl, rfl⟩

theorem SameBus.nextTxBit {p q : Phy} (h : SameBus p q) : nextTxBit q = nextTxBit p := by
  rw [Machine.nextTxBit, Machine.nextTxBit, h.txbuf, h.txByteCur, h.txBitCur]

/-- What an operation can do to the units of the block: `Effect i s t` when `i` may lead from `s` to `t`. -/
inductive Effect (i : Instr) (s : State) : State → Prop where
  /-- An operation on the FIFO, or one that only answers. -/
  | fifo (f : Fifo) (r : Response) (n : Nat) (hf : FifoOk s.fifo → FifoOk f) :
      Effect i s { s with fifo := f, resp := r, freeCtr := n }
  /-- An operation of the foreground on its framers, or one that enters a callback, a wait or a sequence. -/
  | foreground (hp : i.performer = .fgOnly) (ks : List Framer) (fs : List FgFrame) (r : Response)
      (rx : List RxCall) (tx : List TxCall) (n : Nat)
      (hk : FramersOk s → FramersOk { s with framers := ks }) :
      Effect i s { s with framers := ks, fg := fs, resp := r, rxCalls := rx, txCalls := tx, freeCtr := n }
  /-- A wire format of the interrupt agent. -/
  | offers (ins : List Input) (r : Response) : Effect i s { s with irqIn := ins, resp := r }
  /-- A decoder event on its own (R151 to R156). -/
  | event (he : isDecoderEvent i = true) (d : Decoder) (r : Response) (hd : DecInv s.dec → DecInv d) :
      Effect i s { s with dec := d, resp := r }
  /-- A `PHY.INIT` that initialises (R171). -/
  | init (hn : s.instanceActive = false) (f : Fifo) (hf : FifoOk s.fifo → FifoOk f) (l : List Bool)
      (r : Response) :
      Effect i s { s with
        fifo := f, dec := Decoder.zero, phy := phyInitialised s.params s.phy, instanceActive := true
        driven := l, resp := r }
  /-- The reset line is driven, or an edge missed (R172, 60_exceptions R240). -/
  | besideBus (q : Phy) (hq : SameBus s.phy q) (r : Response) : Effect i s { s with phy := q, resp := r }
  /-- An edge starts a frame (R173). -/
  | frameStart (ha : s.instanceActive = true) (he : s.phy.edgeIrqEnabled = true) (q : Phy)
      (hq : SameBus s.phy q) (r : Response) :
      Effect i s { s with dec := { Decoder.zero with ongoing := true }, phy := phyToRx q, resp := r }
  /-- A frame is complete, or a start out of sequence is recovered from (R176, R178). -/
  | frameEnd (ha : s.instanceActive = true)
      (hb : s.phy.busState = .rx ∨ s.phy.edgeIrqEnabled = true) (q : Phy) (hq : SameBus s.phy q)
      (f : Fifo) (hf : FifoOk s.fifo → FifoOk f) (r : Response) (n : Nat) :
      Effect i s { s with fifo := f, dec := Decoder.zero, phy := phyToIdle q, resp := r, freeCtr := n }
  /-- A tick feeds the decoder within a frame (R175). -/
  | fed (d : Decoder) (hd : DecInv s.dec → DecInv d) (ho : d.ongoing = s.dec.ongoing) (r : Response) :
      Effect i s { s with dec := d, resp := r }
  /-- A drive tick (R198). -/
  | drive (hb : s.phy.busState = .tx) (l : List Bool) (r : Response) :
      Effect i s { s with phy := phyDrive s.phy, driven := l, resp := r }
  /-- A read-back tick (R199). -/
  | readBack (hb : s.phy.busState = .tx) (hc : s.phy.collate = true) (r : Response) :
      Effect i s { s with phy := phyReadBack s.phy, resp := r }

theorem respond_effect (r : Response) : Effect i s (s.respond r) := .fifo s.fifo r s.freeCtr id

theorem setFifo_effect {f : Fifo} (r : Response) (hf : FifoOk s.fifo → FifoOk f) :
    Effect i s ((s.setFifo f).respond r) := .fifo f r s.freeCtr hf

/-! ### The guards -/

theorem withValidFifo_next {o : Out} (h : withValidFifo s o = .next t) : o = .next t := by
  unfold withValidFifo at h
  split at h
  · exact h
  · cases h

theorem withPhyInitialised_next {o : Out} (h : withPhyInitialised s o = .next t) :
    s.instanceActive = true ∧ o = .next t := by
  unfold withPhyInitialised at h
  split at h
  · next ha => exact ⟨ha, h⟩
  · cases h

theorem withFramer_next {n : Nat} {o : Out} (h : withFramer n s o = .next t) : o = .next t := by
  unfold withFramer at h
  split at h
  · exact h
  · cases h

/-! ### The FIFO's operations -/

theorem execFifoInit_effect {c e : Size} (h : execFifoInit c e s = .next t) : Effect i s t := by
  unfold execFifoInit at h
  split at h <;> cases h
  exact setFifo_effect _ fun hf => fifoConstruct_fifoOk hf rfl

theorem execFifoPush_effect {arg : Byte} {wide : List Byte} (h : execFifoPush arg wide s = .next t) :
    Effect i s t := by
  have h := withValidFifo_next h
  split at h
  · cases h
  · split at h <;> cases h
    next hp =>
    obtain ⟨f, n, rfl, hf⟩ := pushElement_fifoOk hp
    exact .fifo f _ n hf

theorem popAndRespond_effect {want : Bool} (h : popAndRespond want s = .next t) : Effect i s t := by
  obtain ⟨-, ⟨-, rfl⟩ | ⟨-, -, rfl⟩⟩ := popAndRespond_cases h
  · exact respond_effect _
  · exact setFifo_effect _ fifoOk_advance

theorem execFifoPeek_effect (h : execFifoPeek s = .next t) : Effect i s t := by
  have h := withValidFifo_next h
  split at h <;> cases h
  · exact respond_effect _
  · exact respond_effect _

theorem execFifoReadn_effect {maxLen : Size} (h : execFifoReadn maxLen s = .next t) : Effect i s t := by
  cases withValidFifo_next h
  exact respond_effect _

theorem execFifoClear_effect (h : execFifoClear s = .next t) : Effect i s t := by
  cases withValidFifo_next h
  exact setFifo_effect _ fifoOk_clear

theorem execFifoCap_effect (h : execFifoCap s = .next t) : Effect i s t := by
  cases withValidFifo_next h
  exact respond_effect _

theorem execFifoLen_effect (h : execFifoLen s = .next t) : Effect i s t := by
  cases withValidFifo_next h
  exact respond_effect _

theorem execFifoFree_effect (h : execFifoFree s = .next t) : Effect i s t := by
  cases withValidFifo_next h
  exact .fifo _ _ (s.freeCtr + 1) fun _ => fifoOk_release _

/-! ### The orchestrator's operations -/

theorem execPhyInit_effect (h : execPhyInit s = .next t) : Effect i s t := by
  unfold execPhyInit at h
  split at h
  · cases h; exact respond_effect _
  · next ha =>
    split at h
    · cases h
    · simp only at h
      split at h <;> cases h
      · exact .init (by simpa using ha) _ (fun hf => fifoConstruct_fifoOk hf rfl) _ _
      · exact respond_effect _

theorem execPhyTxen_effect {e : Bool} (h : execPhyTxen e s = .next t) : Effect i s t := by
  obtain ⟨-, h⟩ := withPhyInitialised_next h
  cases h
  exact .besideBus _ (sameBus_resetLine _ _ _) _

theorem execPhyWrite_effect {data : Option (List Byte)} {len : Nat} (hp : i.performer = .fgOnly)
    (h : execPhyWrite data len s = .next t) : Effect i s t := by
  unfold execPhyWrite at h
  split at h <;> cases h
  · exact respond_effect _
  · exact .foreground hp s.framers _ _ s.rxCalls s.txCalls s.freeCtr id

theorem execPhyRead_effect (h : execPhyRead s = .next t) : Effect i s t :=
  popAndRespond_effect (withPhyInitialised_next h).2

theorem execPhyEdgeirq_effect (h : execPhyEdgeirq s = .next t) : Effect i s t := by
  obtain ⟨ha, h⟩ := withPhyInitialised_next h
  split at h <;> cases h
  · next he =>
    obtain ⟨-, ht⟩ | ⟨-, ht⟩ := takeEdge_cases (s := s) rfl <;> rw [ht]
    · exact .frameStart ha he _ (sameBus_edgePending _ _) _
    · exact .frameEnd ha (.inr he) _ (sameBus_reentrant _ _ _) s.fifo id _ s.freeCtr
  · exact .besideBus _ (sameBus_edgePending _ _) _

theorem tickRx_effect {l : Bool} {r : Response} (ha : s.instanceActive = true)
    (hb : s.phy.busState = .rx) (h : tickRx l s = .next t) : Effect i s (t.respond r) := by
  obtain ⟨hfin, hc⟩ | ⟨hfin, rfl⟩ := tickRx_cases h <;>
    obtain ⟨hfin', hd⟩ | ⟨hfin', ho⟩ := decFeedTick_result l s.dec
  · rw [hd] at hc
    obtain ⟨-, -, st, u, hp, rfl⟩ | ⟨-, rfl⟩ := completeFrame_cases hc
    · obtain ⟨f, n, rfl, hf⟩ := pushElement_fifoOk hp
      exact .frameEnd ha (.inl hb) _ (sameBus_countOverflow st _) f hf r n
    · exact .frameEnd ha (.inl hb) _ (sameBus_countErrors _ _) s.fifo id r s.freeCtr
  · exact absurd (hfin.symm.trans hfin') (by decide)
  · exact absurd (hfin.symm.trans hfin') (by decide)
  · exact .fed _ (decFeedTick_keeps_decInv l) ho r

theorem tickTx_effect {r : Response} (hb : s.phy.busState = .tx) (h : tickTx s = .next t) :
    Effect i s (t.respond r) := by
  obtain ⟨hc, rfl⟩ | ⟨-, -, rfl⟩ := tickTx_cases h
  · exact .readBack hb hc r
  · exact .drive hb _ r

theorem execPhyTick_effect {l : Bool} (h : execPhyTick l s = .next t) : Effect i s t := by
  obtain ⟨ha, h⟩ := withPhyInitialised_next h
  split at h
  · cases h; exact respond_effect _
  · split at h
    · next hb =>
      obtain ⟨u, hu, rfl⟩ := thenRespond_cases h
      exact tickRx_effect ha hb hu
    · next hb =>
      obtain ⟨u, hu, rfl⟩ := thenRespond_cases h
      exact tickTx_effect hb hu
    all_goals cases h

/-! ### The framer's operations -/

theorem execPktInit_effect {a : OnStack Byte} {rx : Option Nat} {tx : TxCallback} {op : Option Nat}
    (hp : i.performer = .fgOnly) (h : execPktInit a rx tx op s = .next t) : Effect i s t := by
  cases h
  exact .foreground hp _ s.fg _ s.rxCalls s.txCalls s.freeCtr fun hs =>
    framersOk_setFramer hs (framerOk_of_not_waitData (by simp) (hs _).payload)

theorem framerGoesOn_effect {n : Nat} {k : Framer} (hp : i.performer = .fgOnly)
    (hk : FramerOk (s.framer n) → FramerOk k) : Effect i s (framerGoesOn n k s) :=
  .foreground hp _ s.fg _ s.rxCalls s.txCalls s.freeCtr fun hs => framersOk_setFramer hs (hk (hs n))

theorem deliver_effect {n : Nat} {k : Framer} (hp : i.performer = .fgOnly)
    (hk : FramerOk (s.framer n) → FramerOk k) : Effect i s (deliver n k s) := by
  obtain ⟨_, -, -, ht⟩ | ⟨-, ht⟩ := deliver_cases (s := s) (n := n) (k := k) rfl <;> rw [ht]
  · exact .foreground hp _ _ _ _ s.txCalls s.freeCtr fun hs => framersOk_setFramer hs (hk (hs n))
  · exact .foreground hp _ s.fg _ s.rxCalls s.txCalls s.freeCtr fun hs =>
      framersOk_setFramer hs ⟨(hk (hs n)).count, (hk (hs n)).payload⟩

/-- A payload byte that is not the last leaves the counter below the length (R38, R212). -/
theorem dataCnt_succ_lt {k : Framer} (hk : framerInv k) (hr : k.rxState = .waitData)
    (hne : k.dataCnt + 1 ≠ k.pktLen) : (k.dataCnt + 1).toNat < k.pktLen.toNat := by
  obtain ⟨-, hlt⟩ := hk hr
  have hne : (k.dataCnt + 1).toNat ≠ k.pktLen.toNat := fun h => hne (BitVec.eq_of_toNat_eq h)
  bv_omega

theorem framerTake_effect {n : Nat} {b : Byte} (hp : i.performer = .fgOnly)
    (h : framerTake n b s = .next t) : Effect i s t := by
  obtain ⟨-, rfl⟩ | ⟨-, rfl⟩ | ⟨-, rfl⟩ | ⟨-, -, rfl⟩ | ⟨-, hb, rfl⟩ | ⟨-, -, -, rfl⟩ |
    ⟨hr, -, hne, rfl⟩ := framerTake_cases h
  · exact framerGoesOn_effect hp fun hk => framerOk_of_not_waitData (by simp) hk.payload
  · exact framerGoesOn_effect hp fun hk => framerOk_of_not_waitData (by simp) hk.payload
  · exact framerGoesOn_effect hp fun hk => framerOk_of_not_waitData (by simp) hk.payload
  · exact deliver_effect hp fun hk => framerOk_of_not_waitData (by simp) hk.payload
  · have hpos : 0 < b.toNat := Nat.pos_of_ne_zero fun h0 => hb (BitVec.eq_of_toNat_eq h0)
    exact framerGoesOn_effect hp fun hk => ⟨fun _ => ⟨hpos, hpos⟩, hk.payload⟩
  · exact deliver_effect hp fun hk => framerOk_of_not_waitData (by simp) (cellWrite_wf hk.payload)
  · exact framerGoesOn_effect hp fun hk =>
      ⟨fun _ => ⟨(hk.count hr).1, dataCnt_succ_lt hk.count hr hne⟩, cellWrite_wf hk.payload⟩

theorem execPktRxbyte_effect {b : OnStack Byte} (hp : i.performer = .fgOnly)
    (h : execPktRxbyte b s = .next t) : Effect i s t := by
  have h := withFramer_next h
  split at h
  · cases h
  · exact framerTake_effect hp h

theorem execPktSend_effect {dest : OnStack Byte} {op len : Byte} {data : Option (List Byte)}
    (hp : i.performer = .fgOnly) (h : execPktSend dest op data len s = .next t) : Effect i s t := by
  have h := withFramer_next h
  split at h
  · cases h; exact respond_effect _
  · simp only at h
    split at h <;> cases h
    · exact respond_effect _
    · exact .foreground hp s.framers _ _ s.rxCalls _ (s.freeCtr + 1) id
    · exact .foreground hp s.framers _ _ s.rxCalls _ (s.freeCtr + 1) id

/-- What any operation can do. -/
theorem exec_effect (h : exec i s = .next t) : Effect i s t := by
  cases i with
  | fifoInit c e => exact execFifoInit_effect h
  | fifoPush arg wide => exact execFifoPush_effect h
  | fifoPop want => exact popAndRespond_effect h
  | fifoPeek => exact execFifoPeek_effect h
  | fifoReadn maxLen => exact execFifoReadn_effect h
  | fifoClear => exact execFifoClear_effect h
  | fifoCap => exact execFifoCap_effect h
  | fifoLen => exact execFifoLen_effect h
  | fifoFree => exact execFifoFree_effect h
  | decStart => cases h; exact .event rfl _ _ fun hd => decStart_keeps_decInv hd rfl
  | decEdge => cases h; exact .event rfl _ _ fun hd => decEdge_keeps_decInv hd rfl
  | decSample b => cases h; exact .event rfl _ _ fun hd => decSample_keeps_decInv hd rfl
  | decWant => cases h; exact respond_effect _
  | decReset => cases h; exact .event rfl _ _ fun _ => decInv_zero
  | phyInit => exact execPhyInit_effect h
  | phyTxen e => exact execPhyTxen_effect h
  | phyWrite data len => exact execPhyWrite_effect rfl h
  | phyRead => exact execPhyRead_effect h
  | phyEdgeirq => exact execPhyEdgeirq_effect h
  | phyTick l => exact execPhyTick_effect h
  | fmt b => cases h; exact respond_effect _
  | pktInit a rx tx op => exact execPktInit_effect rfl h
  | pktRxbyte b => exact execPktRxbyte_effect rfl h
  | pktSend dest op data len => exact execPktSend_effect rfl h
  | frame22 samples => cases h; exact .offers _ _
  | fmtword b p => cases h; exact .offers _ _
  | pkthdr a d op len => cases h; exact .foreground rfl s.framers _ _ s.rxCalls s.txCalls s.freeCtr id

end Sys2Proof.Machine
end

section
/-! # What every operation and every step keeps

Each invariant is derived from `exec_effect` by the cases of `Effect`, and carried from operations to steps by
the cases of a turn. The statements of the family are settled where what they rest on stands. -/

namespace Sys2Proof.Machine

variable {s t : State} {i : Instr}

/-! ## Before any initialisation -/

/-- Settles O55: the reset state is a literal. -/
theorem resetIsUninitialised : Obligations.ResetIsUninitialised := ⟨rfl, rfl, rfl, rfl⟩

theorem reset_busInv : BusInv State.reset where
  legal h := nomatch h
  before _ := rfl
  timer := by decide
  edge := by decide
  frame h := nomatch h
  cursors h := nomatch h
  phase _ := rfl
  heldInTx h := nomatch h

theorem reset_lineInv : LineInv State.reset where
  idleHigh h := nomatch h
  highBeforeFirstDrive h := nomatch h
  drivenBit h := nomatch h
  lastSampleHigh h := nomatch h

/-- Settles O57: nothing is constructed, so each unit's invariant asks nothing that its reset value lacks. -/
theorem invariantsHoldAtReset : Obligations.InvariantsHoldAtReset where
  memory := reset_memory_wf
  fifo h := nomatch h
  decoder := decInv_zero
  bus := reset_busInv
  framer _ h := nomatch h
  line := reset_lineInv

/-! ## The units beside the bus -/

theorem Effect.keeps_decInv (he : Effect i s t) (hs : DecInv s.dec) : DecInv t.dec := by
  cases he with
  | fifo | foreground | offers | besideBus | drive | readBack => exact hs
  | event _ _ _ hd => exact hd hs
  | fed _ hd => exact hd hs
  | init | frameEnd => exact decInv_zero
  | frameStart => exact decStart_keeps_decInv decInv_zero rfl

/-- Settles O17, as `exec_effect` gives each operation's effect on the decoder. -/
theorem decoderInvariantsKept : Obligations.DecoderInvariantsKept :=
  fun _ _ _ hs h => (exec_effect h).keeps_decInv hs

theorem Effect.keeps_fifoOk (he : Effect i s t) (hs : FifoOk s.fifo) : FifoOk t.fifo := by
  cases he with
  | foreground | offers | event | besideBus | frameStart | fed | drive | readBack => exact hs
  | fifo _ _ _ hf => exact hf hs
  | init _ _ hf => exact hf hs
  | frameEnd _ _ _ _ _ hf => exact hf hs

theorem Effect.keeps_framersOk (he : Effect i s t) (hs : FramersOk s) : FramersOk t := by
  cases he with
  | foreground _ _ _ _ _ _ _ hk => exact hk hs
  | fifo | offers | event | init | besideBus | frameStart | frameEnd | fed | drive | readBack => exact hs

theorem phyReadBack_txbuf (p : Phy) : (phyReadBack p).txbuf = p.txbuf := by
  obtain ⟨-, h⟩ | ⟨-, -, h⟩ | ⟨-, -, h⟩ := phyReadBack_cases p <;> simp [h]

/-- No operation writes the transmit words: the begin step of `PHY.WRITE` does (R194). -/
theorem Effect.txbuf (he : Effect i s t) : t.phy.txbuf = s.phy.txbuf := by
  cases he with
  | fifo | foreground | offers | event | fed | init | drive => rfl
  | besideBus q hq | frameStart _ _ q hq | frameEnd _ _ q hq => exact hq.txbuf
  | readBack => exact phyReadBack_txbuf _

theorem Effect.params (he : Effect i s t) : t.params = s.params := by
  cases he <;> rfl

/-! ## A frame in progress exactly in Rx (10_state R36 iv) -/

theorem rxMatchesDecoder_congr (hs : rxMatchesDecoder s) (hd : t.dec.ongoing = s.dec.ongoing)
    (hp : t.phy.busState = s.phy.busState) : rxMatchesDecoder t := by
  rw [rxMatchesDecoder, hd, hp]
  exact hs

/-- Outside Rx with no frame in progress R36 (iv) holds. -/
theorem rxMatchesDecoder_of_not_rx (hd : s.dec.ongoing = false) (hp : s.phy.busState ≠ .rx) :
    rxMatchesDecoder s := by
  simp [rxMatchesDecoder, hd, hp]

/-- The read-back phase stays in Tx or ends in Idle (R199). -/
theorem phyReadBack_busState (p : Phy) :
    (phyReadBack p).busState = p.busState ∨ (phyReadBack p).busState = .idle := by
  obtain ⟨-, h⟩ | ⟨-, -, h⟩ | ⟨-, -, h⟩ := phyReadBack_cases p <;> rw [h]
  · exact .inl rfl
  · exact .inl rfl
  · exact .inr rfl

theorem ongoing_false_of_tx (hs : rxMatchesDecoder s) (hb : s.phy.busState = .tx) :
    s.dec.ongoing = false := by
  simpa [rxMatchesDecoder, hb] using hs

/-- Every operation keeps R36 (iv), but a decoder event on its own that starts or ends a frame. -/
theorem Effect.keeps_rxMatchesDecoder (he : Effect i s t) (hs : rxMatchesDecoder s)
    (hev : isDecoderEvent i = true → t.dec.ongoing = s.dec.ongoing) : rxMatchesDecoder t := by
  cases he with
  | fifo | foreground | offers | drive => exact hs
  | event hi => exact rxMatchesDecoder_congr hs (hev hi) rfl
  | fed d _ ho => exact rxMatchesDecoder_congr hs ho rfl
  | besideBus q hq => exact rxMatchesDecoder_congr hs rfl hq.busState
  | init => exact rxMatchesDecoder_of_not_rx rfl (by simp [phyInitialised])
  | frameEnd => exact rxMatchesDecoder_of_not_rx rfl (by simp)
  | frameStart => simp [rxMatchesDecoder]
  | readBack hb =>
    have hidle : s.dec.ongoing = false := ongoing_false_of_tx hs hb
    refine rxMatchesDecoder_of_not_rx hidle ?_
    rcases phyReadBack_busState s.phy with h | h <;> simp [h, hb]

/-- Only a `PHY.INIT` that initialises writes `G.instance_active`, and then R36 (iv) holds (R171). -/
theorem Effect.active (he : Effect i s t) :
    t.instanceActive = s.instanceActive ∨
      s.instanceActive = false ∧ t.instanceActive = true ∧ rxMatchesDecoder t := by
  cases he with
  | init hn =>
    exact .inr ⟨hn, rfl, rxMatchesDecoder_of_not_rx rfl (by simp [phyInitialised])⟩
  | fifo | foreground | offers | event | besideBus | frameStart | frameEnd | fed | drive | readBack =>
    exact .inl rfl

/-- A decoder event on its own writes no field of the orchestrator (41_rx_decoder). -/
theorem exec_decoderEvent_phy (hi : isDecoderEvent i = true) (h : exec i s = .next t) :
    t.phy = s.phy := by
  cases i <;> cases hi <;> cases h <;> rfl

/-- Settles O59: each part is a case of `Effect`, and a decoder event leaves the orchestrator as it was. -/
theorem frameInProgressExactlyInRx : Obligations.FrameInProgressExactlyInRx := by
  refine ⟨fun i s t hi _ hs h => ?_, fun s t hn h ha => ?_, fun i s t hi hs h => ⟨fun ht => ?_, ?_⟩⟩
  · exact (exec_effect h).keeps_rxMatchesDecoder hs fun hi' => absurd (hi.symm.trans hi') (by decide)
  · obtain hsame | ⟨-, -, ht⟩ := (exec_effect h).active
    · exact absurd (ha.symm.trans (hsame.trans hn)) (by decide)
    · exact ht
  · have hphy := exec_decoderEvent_phy hi h
    have hiff : t.dec.ongoing = true ↔ s.dec.ongoing = true := by
      rw [show t.dec.ongoing = true ↔ s.phy.busState = .rx from hphy ▸ ht]
      exact Iff.symm hs
    exact Bool.eq_iff_iff.2 hiff
  · exact fun ho => (exec_effect h).keeps_rxMatchesDecoder hs fun _ => ho

/-- R36 (iv), asked of an initialised block. -/
def FrameInRx (s : State) : Prop := s.instanceActive = true → rxMatchesDecoder s

theorem Effect.keeps_frameInRx (he : Effect i s t) (hs : FrameInRx s)
    (hev : isDecoderEvent i = true → s.instanceActive = true → t.dec.ongoing = s.dec.ongoing) :
    FrameInRx t := by
  intro ha
  obtain hsame | ⟨-, -, ht⟩ := he.active
  · have hactive := hsame.symm.trans ha
    exact he.keeps_rxMatchesDecoder (hs hactive) fun hi => hev hi hactive
  · exact ht

/-! ## The bus-state machine (10_state R36; 43_phy_tx R196) -/

theorem BusInv.not_tx_of_armed (hs : BusInv s) (h : s.phy.edgeIrqEnabled = true) :
    s.phy.busState ≠ .tx := by
  simp [hs.edge.1 h]

/-- An initialised block in Idle with its timer stopped and its edge interrupt armed meets R36. -/
theorem busInv_of_idle (ha : t.instanceActive = true) (hb : t.phy.busState = .idle)
    (ht : t.phy.timerRunning = false) (he : t.phy.edgeIrqEnabled = true) (hc : t.phy.collate = false)
    (hframe : t.params.loneDecoderEvents = false → FrameInRx t) : BusInv t where
  legal _ := .inl hb
  before h := absurd (ha.symm.trans h) (by decide)
  timer := by simp [ht, hb]
  edge := by simp [he, hb]
  frame h hl := hframe hl h
  cursors h := absurd (hb.symm.trans h) (by decide)
  phase _ := hc
  heldInTx h := absurd (hb.symm.trans h) (by decide)

/-- R36 is kept where none of the fields it speaks of is written, but that outside Tx the foreground may be inside of
anything. -/
theorem BusInv.congr (hs : BusInv s) (ha : t.instanceActive = s.instanceActive)
    (hp : t.params = s.params) (hq : SameBus s.phy t.phy)
    (hfg : s.phy.busState = .tx → t.fg = s.fg)
    (hframe : t.params.loneDecoderEvents = false → FrameInRx t) : BusInv t where
  legal h := by rw [hq.busState]; exact hs.legal (ha.symm.trans h)
  before h := by rw [hq.busState]; exact hs.before (ha.symm.trans h)
  timer := by rw [hq.busState, hq.timerRunning]; exact hs.timer
  edge := by rw [hq.busState, hq.edgeIrqEnabled]; exact hs.edge
  frame h hl := hframe hl h
  cursors := by rw [hq.busState, hq.txLen, hq.txByteCur, hq.txBitCur, hp]; exact hs.cursors
  phase := by rw [hq.busState, hq.collate]; exact hs.phase
  heldInTx h := by
    have hb := hq.busState.symm.trans h
    rw [hfg hb]
    exact hs.heldInTx hb

/-- Before initialisation the bus state is Unknown (10_state R42). -/
theorem BusInv.active (hs : BusInv s) (hb : s.phy.busState ≠ .unknown) : s.instanceActive = true := by
  by_contra hn
  exact hb (hs.before (by simpa using hn))

/-- In Tx the phase flag and the cursors move within their range. -/
theorem BusInv.moveCursors (hs : BusInv s) (hb : s.phy.busState = .tx) {q : Phy} {l : List Bool}
    {r : Response} (hstate : q.busState = s.phy.busState)
    (htimer : q.timerRunning = s.phy.timerRunning) (hedge : q.edgeIrqEnabled = s.phy.edgeIrqEnabled)
    (hlen : q.txLen = s.phy.txLen) (hbyte : q.txByteCur < q.txLen) (hbit : q.txBitCur.toNat ≤ 21) :
    BusInv { s with phy := q, driven := l, resp := r } where
  legal _ := .inr (.inr (hstate.trans hb))
  before h := hstate.trans (hs.before h)
  timer := by simpa only [hstate, htimer] using hs.timer
  edge := by simpa only [hstate, hedge] using hs.edge
  frame h hl := rxMatchesDecoder_congr (hs.frame h hl) rfl hstate
  cursors _ := by
    obtain ⟨hpos, hcap, -, -⟩ := hs.cursors hb
    exact ⟨hlen ▸ hpos, hlen ▸ hcap, hbyte, hbit⟩
  phase h := absurd (hstate.trans hb) h
  heldInTx _ := hs.heldInTx hb

theorem readBack_keeps_busInv (hs : BusInv s) (hb : s.phy.busState = .tx) (r : Response) :
    BusInv { s with phy := phyReadBack s.phy, resp := r } := by
  obtain ⟨-, -, hbyte, -⟩ := hs.cursors hb
  obtain ⟨hlt, h⟩ | ⟨-, hne, h⟩ | ⟨-, -, h⟩ := phyReadBack_cases s.phy <;> rw [h]
  · have hbit : (s.phy.txBitCur + 1).toNat ≤ 21 := by bv_omega
    exact hs.moveCursors hb (l := s.driven) rfl rfl rfl rfl hbyte hbit
  · have hnext : s.phy.txByteCur + 1 < s.phy.txLen := by omega
    exact hs.moveCursors hb (l := s.driven) rfl rfl rfl rfl hnext (Nat.zero_le _)
  · have ha : s.instanceActive = true := hs.active (by simp [hb])
    refine busInv_of_idle ha rfl rfl rfl rfl fun hl _ => ?_
    have hidle : s.dec.ongoing = false := ongoing_false_of_tx (hs.frame ha hl) hb
    exact rxMatchesDecoder_of_not_rx hidle (by simp)

/-- Every operation keeps R36, when the foreground performs none while it is held in Tx. -/
theorem Effect.keeps_busInv (he : Effect i s t) (hs : BusInv s)
    (hfg : i.performer = .fgOnly → s.phy.busState ≠ .tx)
    (hframe : t.params.loneDecoderEvents = false → FrameInRx t) : BusInv t := by
  cases he with
  | fifo | offers | event | fed => exact hs.congr rfl rfl (.refl _) (fun _ => rfl) hframe
  | foreground hp => exact hs.congr rfl rfl (.refl _) (fun h => absurd h (hfg hp)) hframe
  | besideBus q hq => exact hs.congr rfl rfl hq (fun _ => rfl) hframe
  | init => exact busInv_of_idle rfl rfl rfl rfl rfl hframe
  | frameStart ha harmed q hq =>
    have hc : q.collate = false := hq.collate.trans (hs.phase (hs.not_tx_of_armed harmed))
    exact
      { legal := fun _ => .inr (.inl rfl)
        before := fun h => absurd (ha.symm.trans h) (by decide)
        timer := by simp
        edge := by simp
        frame := fun h hl => hframe hl h
        cursors := fun h => nomatch h
        phase := fun _ => hc
        heldInTx := fun h => nomatch h }
  | frameEnd ha hb q hq =>
    have hc : q.collate = false := by
      refine hq.collate.trans (hs.phase ?_)
      rcases hb with hrx | harmed
      · simp [hrx]
      · exact hs.not_tx_of_armed harmed
    exact busInv_of_idle ha rfl rfl rfl hc hframe
  | drive hb =>
    obtain ⟨-, -, hbyte, hbit⟩ := hs.cursors hb
    exact hs.moveCursors hb rfl rfl rfl rfl hbyte hbit
  | readBack hb => exact readBack_keeps_busInv hs hb _

/-! ## The output line (43_phy_tx R202) -/

theorem lineInv_of_not_tx (hb : t.phy.busState ≠ .tx) (hd : t.phy.din = true) : LineInv t where
  idleHigh _ _ := hd
  highBeforeFirstDrive h := absurd h hb
  drivenBit h := absurd h hb
  lastSampleHigh h := absurd h hb

theorem LineInv.congr (hs : LineInv s) (ha : t.instanceActive = s.instanceActive)
    (hq : SameBus s.phy t.phy) : LineInv t where
  idleHigh := by rw [ha, hq.busState, hq.din]; exact hs.idleHigh
  highBeforeFirstDrive := by
    rw [hq.busState, hq.txByteCur, hq.txBitCur, hq.collate, hq.din]; exact hs.highBeforeFirstDrive
  drivenBit := by rw [hq.busState, hq.collate, hq.din, hq.nextTxBit]; exact hs.drivenBit
  lastSampleHigh := by rw [hq.busState, hq.txLen, hq.txbuf]; exact hs.lastSampleHigh

/-- The level read back last is that of a stop stuffing bit, so the line is left high (R199, R202). -/
theorem LineInv.din_at_last_sample (hs : LineInv s) (hbus : BusInv s) (hb : s.phy.busState = .tx)
    (hc : s.phy.collate = true) (hbit : 21 ≤ s.phy.txBitCur.toNat) : s.phy.din = true := by
  obtain ⟨-, -, hbyte, hmax⟩ := hbus.cursors hb
  rw [hs.drivenBit hb hc, nextTxBit, show s.phy.txBitCur.toNat = 21 by omega]
  exact hs.lastSampleHigh hb _ hbyte

theorem readBack_keeps_lineInv (hs : LineInv s) (hbus : BusInv s) (hb : s.phy.busState = .tx)
    (hc : s.phy.collate = true) (r : Response) :
    LineInv { s with phy := phyReadBack s.phy, resp := r } := by
  obtain ⟨hlt, h⟩ | ⟨-, -, h⟩ | ⟨hbit, -, h⟩ := phyReadBack_cases s.phy <;> rw [h]
  · exact
      { idleHigh := fun _ hn => absurd hb hn
        highBeforeFirstDrive := fun _ _ h0 => by
          have hne : s.phy.txBitCur + 1 ≠ 0 := by bv_omega
          exact absurd h0 hne
        drivenBit := fun _ h => nomatch h
        lastSampleHigh := hs.lastSampleHigh }
  · exact
      { idleHigh := fun _ hn => absurd hb hn
        highBeforeFirstDrive := fun _ h0 => absurd h0 (Nat.succ_ne_zero _)
        drivenBit := fun _ h => nomatch h
        lastSampleHigh := hs.lastSampleHigh }
  · exact lineInv_of_not_tx (by simp) (hs.din_at_last_sample hbus hb hc hbit)

theorem Effect.keeps_lineInv (he : Effect i s t) (hs : LineInv s) (hbus : BusInv s) : LineInv t := by
  cases he with
  | fifo | foreground | offers | event | fed => exact hs.congr rfl (.refl _)
  | besideBus q hq => exact hs.congr rfl hq
  | init => exact lineInv_of_not_tx (by simp [phyInitialised]) rfl
  | frameStart ha harmed q hq =>
    exact lineInv_of_not_tx (by simp) (hq.din.trans (hs.idleHigh ha (hbus.not_tx_of_armed harmed)))
  | frameEnd ha hb q hq =>
    refine lineInv_of_not_tx (by simp) (hq.din.trans (hs.idleHigh ha ?_))
    rcases hb with hrx | harmed
    · simp [hrx]
    · exact hbus.not_tx_of_armed harmed
  | drive hb =>
    exact
      { idleHigh := fun _ hn => absurd hb hn
        highBeforeFirstDrive := fun _ _ _ h => nomatch h
        drivenBit := fun _ _ => rfl
        lastSampleHigh := hs.lastSampleHigh }
  | readBack hb hc => exact readBack_keeps_lineInv hs hbus hb hc _

/-! ## All of them -/

theorem BlockInv.fifoOk (hs : BlockInv s) : FifoOk s.fifo := by
  obtain ⟨hstore, -, -⟩ := (memory_wf_iff s).1 hs.memory
  exact ⟨hs.fifo, hstore⟩

theorem BlockInv.framersOk (hs : BlockInv s) : FramersOk s := by
  obtain ⟨-, -, hpayload⟩ := (memory_wf_iff s).1 hs.memory
  exact fun n => ⟨hs.framer n, hpayload n⟩

theorem BlockInv.txbuf (hs : BlockInv s) : cellsWf s.phy.txbuf = true := by
  obtain ⟨-, htxbuf, -⟩ := (memory_wf_iff s).1 hs.memory
  exact htxbuf

theorem blockInv_of_units (hfifo : FifoOk t.fifo) (htxbuf : cellsWf t.phy.txbuf = true)
    (hframers : FramersOk t) (hdec : DecInv t.dec) (hbus : BusInv t) (hline : LineInv t) :
    BlockInv t where
  memory := (memory_wf_iff t).2 ⟨hfifo.storage, htxbuf, fun n => (hframers n).payload⟩
  fifo := hfifo.inRange
  decoder := hdec
  bus := hbus
  framer n := (hframers n).count
  line := hline

/-- An operation keeps all the invariants, when the foreground performs none while it is held in Tx, and no
decoder event that is not offered is performed. -/
theorem exec_keeps_blockInv (h : exec i s = .next t) (hs : BlockInv s)
    (hfg : i.performer = .fgOnly → s.phy.busState ≠ .tx)
    (hev : isDecoderEvent i = true → s.instanceActive = true → s.params.loneDecoderEvents = false →
      t.dec.ongoing = s.dec.ongoing) : BlockInv t := by
  have he := exec_effect h
  refine blockInv_of_units (he.keeps_fifoOk hs.fifoOk) (he.txbuf ▸ hs.txbuf)
    (he.keeps_framersOk hs.framersOk) (he.keeps_decInv hs.decoder) (he.keeps_busInv hs.bus hfg ?_)
    (he.keeps_lineInv hs.line hs.bus)
  intro hl
  rw [he.params] at hl
  exact he.keeps_frameInRx (fun ha => hs.bus.frame ha hl) fun hi ha => hev hi ha hl

/-! ## Turns and steps -/

/-- The units of the block are the same: parameters, FIFO, decoder, orchestrator and framers. -/
structure SameUnits (s t : State) : Prop where
  params : t.params = s.params
  fifo : t.fifo = s.fifo
  dec : t.dec = s.dec
  phy : t.phy = s.phy
  active : t.instanceActive = s.instanceActive
  framers : t.framers = s.framers

/-- A turn from `s` to `t` keeps the invariants, and R36 (iv) whatever the parameter `loneDecoderEvents`. -/
structure Kept (s t : State) : Prop where
  block : BlockInv t
  frame : FrameInRx s → FrameInRx t

/-- Where no exception is needed, any may be named. -/
theorem Kept.or (h : Kept s t) (P : Prop) : BlockInv t ∧ (FrameInRx s → FrameInRx t ∨ P) :=
  ⟨h.block, fun hr => .inl (h.frame hr)⟩

theorem Kept.trans {u : State} (h₁ : Kept s u) (h₂ : Kept u t) : Kept s t :=
  ⟨h₂.block, fun h => h₂.frame (h₁.frame h)⟩

/-- What writes no unit keeps the invariants, if it leaves the foreground in its wait in Tx. -/
theorem SameUnits.kept (h : SameUnits s t) (hs : BlockInv s)
    (hfg : s.phy.busState = .tx → t.fg = s.fg) : Kept s t := by
  obtain ⟨hparams, hfifo, hdec, hphy, hactive, hframers⟩ := h
  have hbus : SameBus s.phy t.phy := hphy ▸ .refl _
  have hframe (hr : FrameInRx s) : FrameInRx t := fun ha =>
    rxMatchesDecoder_congr (hr (hactive.symm.trans ha)) (by rw [hdec]) (by rw [hphy])
  have hframer (n : Nat) : t.framer n = s.framer n := by rw [State.framer, hframers, State.framer]
  refine ⟨blockInv_of_units (hfifo ▸ hs.fifoOk) (hphy ▸ hs.txbuf) (fun n => hframer n ▸ hs.framersOk n)
    (hdec ▸ hs.decoder) (hs.bus.congr hactive hparams hbus hfg fun hl => ?_)
    (hs.line.congr hactive hbus), hframe⟩
  exact hframe fun ha => hs.bus.frame ha (hparams ▸ hl)

theorem respond_kept (hs : BlockInv s) (r : Response) : Kept s (s.respond r) :=
  SameUnits.kept ⟨rfl, rfl, rfl, rfl, rfl, rfl⟩ hs fun _ => rfl

theorem setSched_kept (hs : BlockInv s) (as : List Agent) : Kept s (s.setSched as) :=
  SameUnits.kept ⟨rfl, rfl, rfl, rfl, rfl, rfl⟩ hs fun _ => rfl

theorem setIrqIn_kept (hs : BlockInv s) (is : List Input) : Kept s (s.setIrqIn is) :=
  SameUnits.kept ⟨rfl, rfl, rfl, rfl, rfl, rfl⟩ hs fun _ => rfl

theorem setFgIn_kept (hs : BlockInv s) (is : List Input) : Kept s (s.setFgIn is) :=
  SameUnits.kept ⟨rfl, rfl, rfl, rfl, rfl, rfl⟩ hs fun _ => rfl

theorem drawFree_kept (hs : BlockInv s) : Kept s s.drawFree :=
  SameUnits.kept ⟨rfl, rfl, rfl, rfl, rfl, rfl⟩ hs fun _ => rfl

theorem setFg_kept (hs : BlockInv s) (hb : s.phy.busState ≠ .tx) (fs : List FgFrame) :
    Kept s (s.setFg fs) :=
  SameUnits.kept ⟨rfl, rfl, rfl, rfl, rfl, rfl⟩ hs fun h => absurd h hb

theorem setFg_respond_kept (hs : BlockInv s) (hb : s.phy.busState ≠ .tx) (fs : List FgFrame)
    (r : Response) : Kept s ((s.setFg fs).respond r) :=
  have h := setFg_kept hs hb fs
  h.trans (respond_kept h.block r)

/-- An operation that is no decoder event on its own keeps all the invariants. -/
theorem exec_kept (h : exec i s = .next t) (hs : BlockInv s) (hi : isDecoderEvent i = false)
    (hfg : i.performer = .fgOnly → s.phy.busState ≠ .tx) : Kept s t := by
  have hno : isDecoderEvent i ≠ true := by simp [hi]
  exact ⟨exec_keeps_blockInv h hs hfg fun h' => absurd h' hno,
    fun hr => (exec_effect h).keeps_frameInRx hr fun h' => absurd h' hno⟩

/-- Outside the wait of a `PHY.WRITE` the bus is not in Tx (43_phy_tx R196). -/
theorem BusInv.not_tx_of_fg (hs : BusInv s) (h : ∀ inSend fs, s.fg ≠ .write inSend :: fs) :
    s.phy.busState ≠ .tx := by
  intro hb
  obtain ⟨inSend, fs, hfg⟩ := hs.heldInTx hb
  exact h inSend fs hfg

/-- Every word of a transmission ends in 1 (R190, R202). -/
theorem beginTransmission_last {bytes : List Byte} (hw : cellsWf s.phy.txbuf = true) {j : Nat}
    (hj : j < bytes.length) :
    (cellRead (beginTransmission bytes s).phy.txbuf j).getLsbD 21 = true := by
  rw [beginTransmission_word hw, List.getElem?_eq_getElem hj]
  exact formatByte_last _

/-- The begin step of `PHY.WRITE` puts the foreground in its wait and the bus in Tx (R194). -/
theorem writeBegin_kept {data : Option (List Byte)} {len : Nat} {inSend : Bool} {fs : List FgFrame}
    (hs : BlockInv s) (h : writeBegin data len inSend fs s = .next t) : Kept s t := by
  obtain ⟨hb, hpos, hcap, rfl⟩ := writeBegin_cases h
  have ha := hs.bus.active (by simp [hb])
  have hdin := hs.line.idleHigh ha (by simp [hb])
  have hlen : (bufferBytes s.freeCtr data len).length = len := by simp [bufferBytes]
  have hframe (hr : FrameInRx s) : s.dec.ongoing = false := by
    simpa [rxMatchesDecoder, hb] using hr ha
  refine ⟨blockInv_of_units hs.fifoOk (cellWriteAll_wf hs.txbuf) hs.framersOk hs.decoder ?_ ?_, ?_⟩
  · exact
      { legal := fun _ => .inr (.inr rfl)
        before := fun h => absurd (ha.symm.trans h) (by decide)
        timer := by simp [beginTransmission]
        edge := by simp [beginTransmission]
        frame := fun _ hl =>
          rxMatchesDecoder_of_not_rx (hframe fun ha => hs.bus.frame ha hl) (by simp [beginTransmission])
        cursors := fun _ =>
          ⟨hpos.trans_eq hlen.symm, hlen.trans_le hcap, hpos.trans_eq hlen.symm,
            by simp [beginTransmission]⟩
        phase := fun h => absurd rfl h
        heldInTx := fun _ => ⟨inSend, fs, rfl⟩ }
  · exact
      { idleHigh := fun _ h => absurd rfl h
        highBeforeFirstDrive := fun _ _ _ _ => hdin
        drivenBit := fun _ h => nomatch h
        lastSampleHigh := fun _ j hj => beginTransmission_last hs.txbuf hj }
  · exact fun hr _ => rxMatchesDecoder_of_not_rx (hframe hr) (by simp [beginTransmission])

theorem performer_of_decoderEvent (h : isDecoderEvent i = true) : i.performer = .irqOnly := by
  cases i <;> cases h <;> rfl

/-- A coded operation of the foreground is no decoder event. -/
theorem runCode_fg_kept {c : Code} (hs : BlockInv s) (hb : s.phy.busState ≠ .tx)
    (h : runCode .fg c s = .next t) : Kept s t := by
  obtain ⟨i, -, hallows, ⟨-, rfl⟩ | ⟨-, hexec⟩⟩ := runCode_cases h
  · exact respond_kept hs _
  · refine exec_kept hexec hs ?_ fun _ => hb
    by_contra hev
    rw [performer_of_decoderEvent (by simpa using hev)] at hallows
    exact absurd hallows (by decide)

theorem expandPseudo_kept {a : Agent} {p : Pseudo} (hs : BlockInv s)
    (hb : a = .fg → s.phy.busState ≠ .tx) (h : expandPseudo a p s = .next t) : Kept s t := by
  obtain ⟨-, ins, rfl⟩ | ⟨ha, f, rfl⟩ := expandPseudo_cases h
  · have h := setIrqIn_kept hs (ins ++ s.irqIn)
    exact h.trans (respond_kept h.block _)
  · exact setFg_respond_kept hs (hb ha) _ _

theorem returnFromCallback_kept {st : Status} (hs : BlockInv s) (hb : s.phy.busState ≠ .tx)
    (h : returnFromCallback st s = .next t) : Kept s t := by
  obtain ⟨_, -, rfl⟩ | ⟨_, _, -, rfl⟩ := returnFromCallback_cases h
  · exact setFg_respond_kept hs hb _ _
  · exact setFg_respond_kept hs hb _ _

theorem fgInput_kept (hs : BlockInv s) (hb : s.phy.busState ≠ .tx) (h : fgInput s = .next t) :
    Kept s t := by
  obtain ⟨-, rfl⟩ | ⟨_, rest, -, h⟩ | ⟨_, rest, -, h⟩ | ⟨_, rest, -, h⟩ := fgInput_cases h
  · exact ⟨hs, id⟩
  all_goals have hin := setFgIn_kept hs rest
  · exact hin.trans (runCode_fg_kept hin.block hb h)
  · exact hin.trans (expandPseudo_kept hin.block (fun _ => hb) h)
  · exact hin.trans (returnFromCallback_kept hin.block hb h)

theorem checkStep_kept {data : Option (List Byte)} {len : Nat} {fs : List FgFrame} (hs : BlockInv s)
    (hb : s.phy.busState ≠ .tx) (h : checkStep data len fs s = .next t) : Kept s t := by
  obtain ⟨_, -, rfl⟩ | ⟨-, rfl⟩ := checkStep_cases h
  · exact setFg_respond_kept hs hb _ _
  · exact setFg_respond_kept hs hb _ _

/-- A byte that a `PKT.POLL` or a `PKT.RXBUF` hands on. -/
theorem handOn_kept {n : Nat} {b : Byte} {fs : List FgFrame} (hs : BlockInv s)
    (hb : s.phy.busState ≠ .tx) (h : exec (.pktRxbyte ⟨n, b⟩) (s.setFg fs) = .next t) : Kept s t := by
  have hset := setFg_kept hs hb fs
  exact hset.trans (exec_kept h hset.block rfl fun _ => hb)

/-- The read of a `PKT.POLL` leaves the bus state, so that the poll goes on outside Tx. -/
theorem pollRead_kept {n : Nat} {fs : List FgFrame} {u : State} (hs : BlockInv s)
    (hb : s.phy.busState ≠ .tx) (h : exec .phyRead s = .next u) : Kept s (pollAfterRead n fs u) := by
  have hread : Kept s u := exec_kept h hs rfl fun _ => hb
  have hbus : u.phy = s.phy := by
    obtain ⟨-, ⟨-, rfl⟩ | ⟨-, -, rfl⟩⟩ := popAndRespond_cases (withPhyInitialised_next h).2 <;> rfl
  obtain ⟨gs, hgs, -⟩ := pollAfterRead_eq n fs u
  rw [hgs]
  exact hread.trans (setFg_kept hread.block (hbus ▸ hb) gs)

theorem fgTurn_kept (hs : BlockInv s) (h : fgTurn s = .next t) : Kept s t := by
  obtain ⟨_, _, _, hf, h⟩ | ⟨_, _, _, _, -, h⟩ | ⟨_, _, -, ⟨-, rfl⟩ | ⟨hb, rfl⟩⟩ |
    ⟨_, _, _, hf, hread, rfl⟩ | ⟨_, _, _, hf, h⟩ | ⟨_, _, _, _, _, hf, h⟩ | ⟨_, _, _, hf, rfl⟩ |
    ⟨hf, h⟩ := fgTurn_cases h
  · exact checkStep_kept hs (hs.bus.not_tx_of_fg (by simp [hf])) h
  · exact writeBegin_kept hs h
  · exact respond_kept hs _
  · exact setFg_respond_kept hs hb _ _
  · exact pollRead_kept hs (hs.bus.not_tx_of_fg (by simp [hf])) hread
  · exact handOn_kept hs (hs.bus.not_tx_of_fg (by simp [hf])) h
  · exact handOn_kept hs (hs.bus.not_tx_of_fg (by simp [hf])) h
  · exact setFg_respond_kept hs (hs.bus.not_tx_of_fg (by simp [hf])) _ _
  · refine fgInput_kept hs (hs.bus.not_tx_of_fg fun _ _ hw => ?_) h
    obtain hf | ⟨_, hf | ⟨_, hf⟩⟩ := hf <;> simp [hf] at hw

/-- A decoder event that is offered leaves the frame as it was, where the parameter has it so (log entry 15). -/
theorem offered_keeps_ongoing (hn : notOffered i s = false) (h : exec i s = .next t)
    (hi : isDecoderEvent i = true) (ha : s.instanceActive = true)
    (hl : s.params.loneDecoderEvents = false) : t.dec.ongoing = s.dec.ongoing := by
  simpa [notOffered, changesFrame, h, hi, ha, hl] using hn

/-- The exception of R36 (iv): an event on its own, offered by the parameter, starts or ends a frame. -/
def LoneEventChangesFrame (s t : State) (c : Code) : Prop :=
  s.params.loneDecoderEvents = true ∧ (∃ i, decode c = .ok i ∧ isDecoderEvent i = true) ∧
    t.dec.ongoing ≠ s.dec.ongoing

/-- A coded operation of the interrupt agent keeps the invariants, R36 (iv) with its exception. -/
theorem runCode_irq_keeps {c : Code} (hs : BlockInv s) (h : runCode .irq c s = .next t) :
    BlockInv t ∧ (FrameInRx s → FrameInRx t ∨ LoneEventChangesFrame s t c) := by
  obtain ⟨i, hdecode, hallows, ⟨-, rfl⟩ | ⟨hn, hexec⟩⟩ := runCode_cases h
  · exact (respond_kept hs .noStep).or _
  · have hfg : i.performer ≠ .fgOnly := fun hp => absurd (hp ▸ hallows) (by decide)
    have hev := offered_keeps_ongoing hn hexec
    refine ⟨exec_keeps_blockInv hexec hs (fun hp => absurd hp hfg) hev, fun hr => ?_⟩
    by_cases hx : s.params.loneDecoderEvents = true ∧ isDecoderEvent i = true ∧ t.dec.ongoing ≠ s.dec.ongoing
    · obtain ⟨hl, hi, hne⟩ := hx
      exact .inr ⟨hl, ⟨i, hdecode, hi⟩, hne⟩
    · refine .inl ((exec_effect hexec).keeps_frameInRx hr fun hi ha => ?_)
      cases hl : s.params.loneDecoderEvents with
      | false => exact hev hi ha hl
      | true => exact not_not.1 fun hne => hx ⟨hl, hi, hne⟩

theorem irqTurn_keeps (hs : BlockInv s) (h : irqTurn s = .next t) :
    BlockInv t ∧ (FrameInRx s → FrameInRx t ∨
      ∃ c rest, s.irqIn = .op c :: rest ∧ LoneEventChangesFrame s t c) := by
  obtain ⟨-, rfl⟩ | ⟨c, rest, hin, h⟩ | ⟨_, rest, -, h⟩ | ⟨rest, -, h⟩ := irqTurn_cases h
  · exact Kept.or ⟨hs, id⟩ _
  all_goals have hset := setIrqIn_kept hs rest
  · obtain ⟨hblock, hframe⟩ := runCode_irq_keeps hset.block h
    exact ⟨hblock, fun hr => (hframe (hset.frame hr)).imp_right fun hx => ⟨c, rest, hin, hx⟩⟩
  · exact (hset.trans (expandPseudo_kept hset.block (fun ha => absurd ha (by decide)) h)).or _
  · have hdraw := drawFree_kept hset.block
    exact (hset.trans (hdraw.trans (exec_kept h hdraw.block rfl fun hp => nomatch hp))).or _

/-- Settles O56, by the cases of a step: a delivered edge, no turn, or a turn of one of the agents. -/
theorem everyStepKeepsInvariants : Obligations.EveryStepKeepsInvariants := by
  intro s t hs h
  obtain ⟨-, h⟩ | ⟨-, -, rfl⟩ | ⟨hedge, turns, hsched, h⟩ | ⟨-, turns, -, h⟩ := step_cases h
  · exact (exec_kept h hs rfl fun hp => nomatch hp).or _
  · exact Kept.or ⟨hs, id⟩ _
  · obtain ⟨hblock, hframe⟩ := irqTurn_keeps (setSched_kept hs turns).block h
    refine ⟨hblock, fun hr => (hframe hr).imp_right ?_⟩
    rintro ⟨c, ins, hin, hl, ⟨i, hdecode, hi⟩, hne⟩
    exact ⟨hl, ⟨hedge, turns, c, ins, i, hsched, hin, hdecode, hi⟩, hne⟩
  · have hset := setSched_kept hs turns
    exact (hset.trans (fgTurn_kept hset.block h)).or _

end Sys2Proof.Machine
end

section
/-! # The oldest elements as two copies, and the step as its operation (spec/20_memory.md R71, R72, R78) -/

namespace Sys2Proof.Machine

/-! ## The oldest elements of a FIFO (R78) -/

/-- Before the end of the storage the slot index does not wrap. -/
theorem slot_before_wrap {f : Fifo} {j : Nat} (hj : j < f.cap + 1 - f.rd) :
    (f.rd + j) % (f.cap + 1) = f.rd + j :=
  Nat.mod_eq_of_lt (by omega)

/-- Past the end of the storage the slot index goes on from 0. -/
theorem slot_after_wrap {f : Fifo} {j : Nat} (hr : f.rd ≤ f.cap) (hj : j ≤ f.cap) :
    (f.rd + (f.cap + 1 - f.rd + j)) % (f.cap + 1) = j := by
  rw [show f.rd + (f.cap + 1 - f.rd + j) = j + (f.cap + 1) by omega, Nat.add_mod_right,
    Nat.mod_eq_of_lt (by omega)]

/-- The oldest `k + m` elements are the oldest `k` and the `m` after them. -/
theorem fifoOldest_add (f : Fifo) (k m : Nat) :
    fifoOldest f (k + m) =
      fifoOldest f k ++ (List.range m).map fun j => fifoSlot f ((f.rd + (k + j)) % (f.cap + 1)) := by
  simp [fifoOldest, List.range_add, Function.comp_def]

/-- Settles O6: the elements are cut at the end of the storage, or not at all. -/
theorem fifoReadnIsTwoCopies : Obligations.FifoReadnIsTwoCopies := by
  intro f n hr hn
  have hcap : n ≤ f.cap := hn.trans (fifoLength_le f)
  obtain ⟨k, hk⟩ : ∃ k, k = min n (f.cap + 1 - f.rd) := ⟨_, rfl⟩
  have hfirst : fifoOldest f k = (List.range k).map fun j => fifoSlot f (f.rd + j) := by
    refine List.map_congr_left fun j hj => ?_
    have hj : j < k := List.mem_range.1 hj
    rw [slot_before_wrap (by omega)]
  have hrest : (List.range (n - k)).map (fun j => fifoSlot f ((f.rd + (k + j)) % (f.cap + 1))) =
      (List.range (n - k)).map fun j => fifoSlot f j := by
    refine List.map_congr_left fun j hj => ?_
    have hj : j < n - k := List.mem_range.1 hj
    have hend : k = f.cap + 1 - f.rd := by omega
    rw [hend, slot_after_wrap hr (by omega)]
  calc fifoOldest f n = fifoOldest f (k + (n - k)) := by rw [show k + (n - k) = n by omega]
    _ = _ := by rw [fifoOldest_add, hfirst, hrest, hk]

/-! ## The step as its operation (R71, R72) -/

variable {s t : State} {i : Instr} {c : Code} {turns : List Agent} {ins : List Input}

/-- A code that decodes is performed by an agent that may, unless it is an event that is not offered. -/
theorem runCode_ok {a : Agent} (hd : decode c = .ok i) (ha : i.performer.allows a = true) :
    runCode a c s = if notOffered i s then .next (s.respond .noStep) else exec i s := by
  simp [runCode, hd, ha]

theorem step_irq_op (he : edgeDeliverable s = false) (hsched : s.sched = .irq :: turns)
    (hin : s.irqIn = .op c :: ins) :
    step s = runCode .irq c ((s.setSched turns).setIrqIn ins) := by
  simp [step, nextStep, he, hsched, irqTurn, hin]

theorem step_fg_op (he : edgeDeliverable s = false) (hsched : s.sched = .fg :: turns)
    (hin : s.fgIn = .op c :: ins)
    (hfg : s.fg = [] ∨ ∃ fs, s.fg = .sendCb :: fs ∨ ∃ n, s.fg = .recvCb n :: fs) :
    step s = runCode .fg c ((s.setSched turns).setFgIn ins) := by
  have hturn : fgTurn (s.setSched turns) = fgInput (s.setSched turns) := by
    obtain hf | ⟨_, hf | ⟨_, hf⟩⟩ := hfg <;> simp [fgTurn, hf]
  simp [step, nextStep, he, hsched, hturn, fgInput, hin]

/-- Whether a decoder event starts or ends a frame depends on the decoder alone (41_rx_decoder). -/
theorem changesFrame_congr (hi : isDecoderEvent i = true) (hd : t.dec = s.dec) :
    changesFrame i t = changesFrame i s := by
  cases i <;> cases hi <;>
    simp [changesFrame, exec, execDecStart, execDecEdge, execDecSample, execDecReset, execDecWant,
      answerEvent, hd]

/-- Whether an event is offered does not depend on the schedule and the inputs. -/
theorem notOffered_congr (ha : t.instanceActive = s.instanceActive) (hp : t.params = s.params)
    (hd : t.dec = s.dec) : notOffered i t = notOffered i s := by
  cases hi : isDecoderEvent i with
  | false => simp [notOffered, hi]
  | true => simp [notOffered, hi, ha, hp, changesFrame_congr hi hd]

theorem notOffered_of_changes (hi : isDecoderEvent i = true) (ha : s.instanceActive = true)
    (hl : s.params.loneDecoderEvents = false) (h : exec i s = .next t)
    (hne : t.dec.ongoing ≠ s.dec.ongoing) : notOffered i s = true := by
  simp [notOffered, changesFrame, hi, ha, hl, h, hne]

/-- Only the interrupt agent's operations are ever not offered. -/
theorem notOffered_of_not_irqOnly (hp : i.performer ≠ .irqOnly) : notOffered i s = false := by
  by_contra hn
  obtain ⟨hi, -⟩ := notOffered_cases (by simpa using hn)
  exact hp (performer_of_decoderEvent hi)

theorem allows_irq (hp : i.performer ≠ .fgOnly) : i.performer.allows .irq = true := by
  cases h : i.performer with
  | irqOnly | anyAgent => rfl
  | fgOnly => exact absurd h hp

theorem allows_fg (hp : i.performer ≠ .irqOnly) : i.performer.allows .fg = true := by
  cases h : i.performer with
  | fgOnly | anyAgent => rfl
  | irqOnly => exact absurd h hp

/-- Settles O51: each turn performs the code it takes, and the exception is the event that is not offered. -/
theorem stepRunsDecodedOperation : Obligations.StepRunsDecodedOperation := by
  intro s c i turns ins he hd
  refine ⟨fun hsched hin hp => ?_, fun hsched hin hp hfg => ?_⟩
  · have hoffer : notOffered i ((s.setSched turns).setIrqIn ins) = notOffered i s :=
      notOffered_congr rfl rfl rfl
    rw [step_irq_op he hsched hin, runCode_ok hd (allows_irq hp), hoffer]
    refine ⟨fun hkeep => ?_, fun hi ha hl ⟨t, ht, hne⟩ => ?_⟩
    · have hn : notOffered i s = false := by
        by_contra hn
        obtain ⟨hi, ha, hl, t, ht, hne⟩ := notOffered_cases (by simpa using hn)
        exact hne (hkeep hi ha hl t ht)
      rw [hn]
      rfl
    · rw [notOffered_of_changes hi ha hl ht hne]
      rfl
  · rw [step_fg_op he hsched hin hfg, runCode_ok hd (allows_fg hp), notOffered_of_not_irqOnly hp]
    rfl

end Sys2Proof.Machine
end

section
/-! # No step faults (spec/20_memory.md R62)

Only an operation accesses an array by an index that may be out of range, and the invariants keep the three
indices in range: the FIFO's, the cursor into the transmit words, and the payload counter. -/

namespace Sys2Proof.Machine

variable {s t u : State} {i : Instr} {f : Fault}

/-- Every index that an operation uses is in the range of its array (R62). -/
structure IndicesInRange (s : State) : Prop where
  /-- R23 -/
  fifo : fifoInv s.fifo
  /-- R36 (v) -/
  txbuf : s.phy.busState = .tx → s.phy.txByteCur < s.params.txbufCap
  /-- R38 -/
  payload : ∀ n, (s.framer n).rxState = .waitData → (s.framer n).dataCnt.toNat < 255

theorem BlockInv.indicesInRange (hs : BlockInv s) : IndicesInRange s where
  fifo := hs.fifo
  txbuf hb := by
    obtain ⟨-, hcap, hbyte, -⟩ := hs.bus.cursors hb
    omega
  payload n hr := by
    obtain ⟨-, hlt⟩ := hs.framer n hr
    have hlen : (s.framer n).pktLen.toNat < 256 := (s.framer n).pktLen.isLt
    omega

theorem SameUnits.trans (h₁ : SameUnits s t) (h₂ : SameUnits t u) : SameUnits s u :=
  ⟨h₂.params.trans h₁.params, h₂.fifo.trans h₁.fifo, h₂.dec.trans h₁.dec, h₂.phy.trans h₁.phy,
    h₂.active.trans h₁.active, h₂.framers.trans h₁.framers⟩

theorem SameUnits.indicesInRange (h : SameUnits s t) (hs : IndicesInRange s) : IndicesInRange t where
  fifo := h.fifo ▸ hs.fifo
  txbuf := by rw [h.phy, h.params]; exact hs.txbuf
  payload n := by rw [State.framer, h.framers]; exact hs.payload n

/-! ## A fault behind a guard -/

theorem withValidFifo_fault {o : Out} (h : withValidFifo s o = .fault f) :
    s.fifo.valid = true ∧ o = .fault f := by
  unfold withValidFifo at h
  split at h
  · next hv => exact ⟨hv, h⟩
  · cases h

theorem withPhyInitialised_fault {o : Out} (h : withPhyInitialised s o = .fault f) : o = .fault f := by
  unfold withPhyInitialised at h
  split at h
  · exact h
  · cases h

theorem withFramer_fault {n : Nat} {o : Out} (h : withFramer n s o = .fault f) : o = .fault f := by
  unfold withFramer at h
  split at h
  · exact h
  · cases h

theorem thenRespond_fault {r : Response} {o : Out} (h : thenRespond r o = .fault f) : o = .fault f := by
  cases o <;> cases h
  rfl

/-! ## The operations that access an array -/

/-- With its write index in range a push by its operand does not fault. -/
theorem pushElement_total (operand : Option (List Byte)) (hw : s.fifo.wr ≤ s.fifo.cap) :
    ∃ st t, pushElement operand s = .ok (st, t) := by
  unfold pushElement
  cases operand with
  | some elem =>
    obtain ⟨st, g, hp⟩ := fifoPush_total (elem := elem) hw
    exact ⟨st, s.setFifo g, by simp only [hp]⟩
  | none =>
    obtain ⟨st, g, hp⟩ := fifoPush_total (elem := freeElement s.freeCtr s.fifo.esz) hw
    exact ⟨st, (s.setFifo g).drawFree, by simp only [hp]⟩

theorem execFifoPush_ne_fault {arg : Byte} {wide : List Byte} (hs : fifoInv s.fifo) :
    execFifoPush arg wide s ≠ .fault f := by
  intro h
  obtain ⟨hv, h⟩ := withValidFifo_fault h
  obtain ⟨-, -, -, hw⟩ := hs hv
  obtain ⟨st, t, hp⟩ := pushElement_total (elementOperand s.fifo.esz arg wide) hw
  rw [hp] at h
  split at h <;> cases h

theorem popAndRespond_ne_fault {want : Bool} (hs : fifoInv s.fifo) :
    popAndRespond want s ≠ .fault f := by
  intro h
  obtain ⟨hv, h⟩ := withValidFifo_fault h
  obtain ⟨-, -, hr, -⟩ := hs hv
  obtain ⟨r, hp⟩ := fifoPop_total hr
  rw [hp] at h
  cases r <;> cases h

theorem execFifoPeek_ne_fault (hs : fifoInv s.fifo) : execFifoPeek s ≠ .fault f := by
  intro h
  obtain ⟨hv, h⟩ := withValidFifo_fault h
  obtain ⟨-, -, hr, -⟩ := hs hv
  obtain ⟨r, hp⟩ := fifoPop_total hr
  rw [hp] at h
  cases r <;> cases h

/-- The completion of a frame accesses the FIFO as a push does, once it is found valid (R176). -/
theorem completeFrame_ne_fault {r : DecResult} (hs : fifoInv s.fifo) :
    completeFrame r s ≠ .fault f := by
  intro h
  unfold completeFrame at h
  split at h
  · split at h
    · cases h
    · next hv =>
      obtain ⟨-, -, -, hw⟩ := hs (by simpa using hv)
      obtain ⟨st, t, hp⟩ := pushElement_total (elementOperand s.fifo.esz r.data []) hw
      rw [hp] at h
      cases h
  · cases h

theorem tickRx_ne_fault {l : Bool} (hs : fifoInv s.fifo) : tickRx l s ≠ .fault f := by
  intro h
  unfold tickRx at h
  simp only at h
  split at h
  · exact completeFrame_ne_fault (s := s.setDec (decFeedTick l s.dec).2) hs h
  · cases h

theorem tickTx_ne_fault (hs : s.phy.txByteCur < s.params.txbufCap) : tickTx s ≠ .fault f := by
  unfold tickTx
  rw [if_pos hs]
  split <;> exact fun h => nomatch h

theorem execPhyTick_ne_fault {l : Bool} (hs : IndicesInRange s) : execPhyTick l s ≠ .fault f := by
  intro h
  have h := withPhyInitialised_fault h
  split at h
  · cases h
  · split at h
    · exact tickRx_ne_fault hs.fifo (thenRespond_fault h)
    · next hb => exact tickTx_ne_fault (hs.txbuf hb) (thenRespond_fault h)
    all_goals cases h

theorem execPktRxbyte_ne_fault {b : OnStack Byte} (hs : IndicesInRange s) :
    execPktRxbyte b s ≠ .fault f := by
  intro h
  have h := withFramer_fault h
  split at h
  · cases h
  · obtain ⟨t, ht⟩ := framerTake_total b.stack b.operand (hs.payload b.stack)
    cases ht.symm.trans h

/-! ## The operations that access none -/

theorem execFifoInit_ne_fault {c e : Size} : execFifoInit c e s ≠ .fault f := by
  unfold execFifoInit
  split <;> exact fun h => nomatch h

theorem execPhyInit_ne_fault : execPhyInit s ≠ .fault f := by
  unfold execPhyInit
  simp only
  split_ifs <;> exact fun h => nomatch h

theorem execPhyWrite_ne_fault {data : Option (List Byte)} {len : Nat} :
    execPhyWrite data len s ≠ .fault f := by
  unfold execPhyWrite
  split <;> exact fun h => nomatch h

theorem execPhyEdgeirq_ne_fault : execPhyEdgeirq s ≠ .fault f := by
  intro h
  have h := withPhyInitialised_fault h
  split at h <;> cases h

theorem execPktSend_ne_fault {dest : OnStack Byte} {op len : Byte} {data : Option (List Byte)} :
    execPktSend dest op data len s ≠ .fault f := by
  intro h
  have h := withFramer_fault h
  split at h
  · cases h
  · simp only at h
    split at h <;> cases h

/-- With every index in range no operation faults. -/
theorem exec_ne_fault (hs : IndicesInRange s) : exec i s ≠ .fault f := by
  intro h
  cases i with
  | fifoPush arg wide => exact execFifoPush_ne_fault hs.fifo h
  | fifoPop want => exact popAndRespond_ne_fault hs.fifo h
  | fifoPeek => exact execFifoPeek_ne_fault hs.fifo h
  | phyRead => exact popAndRespond_ne_fault hs.fifo (withPhyInitialised_fault h)
  | phyTick l => exact execPhyTick_ne_fault hs h
  | pktRxbyte b => exact execPktRxbyte_ne_fault hs h
  | fifoReadn | fifoClear | fifoCap | fifoLen | fifoFree => cases (withValidFifo_fault h).2
  | phyTxen => cases withPhyInitialised_fault h
  | phyInit => exact execPhyInit_ne_fault h
  | phyWrite => exact execPhyWrite_ne_fault h
  | phyEdgeirq => exact execPhyEdgeirq_ne_fault h
  | pktSend => exact execPktSend_ne_fault h
  | fifoInit => exact execFifoInit_ne_fault h
  | decStart | decEdge | decSample | decWant | decReset | fmt | pktInit | frame22 | fmtword | pkthdr =>
    cases h

/-! ## A turn faults only through an operation -/

/-- The fault `f` is that of an operation performed with the units of the block as `s` has them. -/
def FaultsInOperation (s : State) (f : Fault) : Prop :=
  ∃ i u, SameUnits s u ∧ exec i u = .fault f

theorem FaultsInOperation.of_exec (h : exec i t = .fault f) (hu : SameUnits s t) :
    FaultsInOperation s f :=
  ⟨i, t, hu, h⟩

theorem FaultsInOperation.of_sameUnits (h : FaultsInOperation t f) (ht : SameUnits s t) :
    FaultsInOperation s f := by
  obtain ⟨i, u, hu, hf⟩ := h
  exact ⟨i, u, ht.trans hu, hf⟩

theorem runCode_fault {a : Agent} {c : Code} (h : runCode a c s = .fault f) :
    FaultsInOperation s f := by
  unfold runCode at h
  split at h
  · cases h
  · split at h
    · split at h
      · cases h
      · exact .of_exec h ⟨rfl, rfl, rfl, rfl, rfl, rfl⟩
    · cases h

theorem expandPseudo_ne_fault {a : Agent} {p : Pseudo} : expandPseudo a p s ≠ .fault f := by
  cases a <;> cases p <;> exact fun h => nomatch h

theorem irqTurn_fault (h : irqTurn s = .fault f) : FaultsInOperation s f := by
  unfold irqTurn at h
  split at h
  · cases h
  · exact .of_sameUnits (runCode_fault h) ⟨rfl, rfl, rfl, rfl, rfl, rfl⟩
  · exact absurd h expandPseudo_ne_fault
  · exact .of_exec h ⟨rfl, rfl, rfl, rfl, rfl, rfl⟩
  · cases h

theorem returnFromCallback_ne_fault {st : Status} : returnFromCallback st s ≠ .fault f := by
  unfold returnFromCallback
  split <;> exact fun h => nomatch h

theorem fgInput_fault (h : fgInput s = .fault f) : FaultsInOperation s f := by
  unfold fgInput at h
  split at h
  · cases h
  · exact .of_sameUnits (runCode_fault h) ⟨rfl, rfl, rfl, rfl, rfl, rfl⟩
  · exact absurd h expandPseudo_ne_fault
  · cases h
  · exact absurd h returnFromCallback_ne_fault

theorem checkStep_ne_fault {data : Option (List Byte)} {len : Nat} {fs : List FgFrame} :
    checkStep data len fs s ≠ .fault f := by
  unfold checkStep
  split <;> exact fun h => nomatch h

theorem writeBegin_ne_fault {data : Option (List Byte)} {len : Nat} {inSend : Bool}
    {fs : List FgFrame} : writeBegin data len inSend fs s ≠ .fault f := by
  unfold writeBegin
  split <;> exact fun h => nomatch h

theorem waitStep_ne_fault {inSend : Bool} {fs : List FgFrame} : waitStep inSend fs s ≠ .fault f := by
  unfold waitStep
  split <;> exact fun h => nomatch h

theorem pollRead_fault {n : Nat} {fs : List FgFrame} (h : pollRead n fs s = .fault f) :
    exec .phyRead s = .fault f := by
  unfold pollRead at h
  split at h <;> cases h
  next h => exact h

theorem fgTurn_fault (h : fgTurn s = .fault f) : FaultsInOperation s f := by
  unfold fgTurn at h
  split at h
  · exact absurd h checkStep_ne_fault
  · exact absurd h writeBegin_ne_fault
  · exact absurd h waitStep_ne_fault
  · exact .of_exec (pollRead_fault h) ⟨rfl, rfl, rfl, rfl, rfl, rfl⟩
  · exact .of_exec h ⟨rfl, rfl, rfl, rfl, rfl, rfl⟩
  · exact .of_exec h ⟨rfl, rfl, rfl, rfl, rfl, rfl⟩
  · cases h
  all_goals exact fgInput_fault h

theorem step_fault (h : step s = .fault f) : FaultsInOperation s f := by
  unfold step nextStep at h
  split at h
  · exact .of_exec h ⟨rfl, rfl, rfl, rfl, rfl, rfl⟩
  · split at h
    · cases h
    · exact .of_sameUnits (irqTurn_fault h) ⟨rfl, rfl, rfl, rfl, rfl, rfl⟩
    · exact .of_sameUnits (fgTurn_fault h) ⟨rfl, rfl, rfl, rfl, rfl, rfl⟩

/-- Settles O58: a fault would be that of an operation, and the invariants put every index it uses in range. -/
theorem noStepFaults : Obligations.NoStepFaults := by
  intro s f hs h
  obtain ⟨i, u, hu, hf⟩ := step_fault h
  exact exec_ne_fault (hu.indicesInRange hs.indicesInRange) hf

end Sys2Proof.Machine
end

section
/-! # Each agent writes only its own state (spec/20_memory.md R73)

One structure says what the interrupt agent leaves, another what the foreground leaves, and each is shown of the
agent's operations one by one. A turn of the foreground performs such operations, moves on in what it is inside of,
or is the begin step of `PHY.WRITE`. -/

namespace Sys2Proof.Machine

variable {s t u : State} {i : Instr}

/-! ## What the interrupt agent leaves -/

/-- The state of the foreground and of its callers is as it was (R73). -/
structure InterruptLeaves (s t : State) : Prop where
  framers : t.framers = s.framers
  txbuf : t.phy.txbuf = s.phy.txbuf
  txLen : t.phy.txLen = s.phy.txLen
  txEnabled : t.phy.txEnabled = s.phy.txEnabled
  rstLine : t.phy.rstLine = s.phy.rstLine
  readIndex : t.fifo.rd = s.fifo.rd
  params : t.params = s.params
  fg : t.fg = s.fg

theorem InterruptLeaves.refl (s : State) : InterruptLeaves s s := ⟨rfl, rfl, rfl, rfl, rfl, rfl, rfl, rfl⟩

theorem InterruptLeaves.trans (h₁ : InterruptLeaves s t) (h₂ : InterruptLeaves t u) :
    InterruptLeaves s u :=
  ⟨h₂.framers.trans h₁.framers, h₂.txbuf.trans h₁.txbuf, h₂.txLen.trans h₁.txLen,
    h₂.txEnabled.trans h₁.txEnabled, h₂.rstLine.trans h₁.rstLine, h₂.readIndex.trans h₁.readIndex,
    h₂.params.trans h₁.params, h₂.fg.trans h₁.fg⟩

theorem InterruptLeaves.respond (h : InterruptLeaves s t) (r : Response) :
    InterruptLeaves s (t.respond r) :=
  h.trans ⟨rfl, rfl, rfl, rfl, rfl, rfl, rfl, rfl⟩

theorem fifoPush_rd {elem : List Byte} {f g : Fifo} {st : Status} (h : fifoPush elem f = .ok (st, g)) :
    g.rd = f.rd := by
  obtain ⟨-, -, rfl⟩ | ⟨-, -, -, rfl⟩ := fifoPush_cases h <;> rfl

theorem pushElement_interruptLeaves {operand : Option (List Byte)} {st : Status}
    (h : pushElement operand s = .ok (st, t)) : InterruptLeaves s t := by
  obtain ⟨_, f, -, hp, rfl⟩ | ⟨_, f, -, -, hp, rfl⟩ := pushElement_cases h
  · exact ⟨rfl, rfl, rfl, rfl, rfl, fifoPush_rd hp, rfl, rfl⟩
  · exact ⟨rfl, rfl, rfl, rfl, rfl, fifoPush_rd hp, rfl, rfl⟩

theorem execFifoPush_interruptLeaves {arg : Byte} {wide : List Byte}
    (h : execFifoPush arg wide s = .next t) : InterruptLeaves s t := by
  have h := withValidFifo_next h
  split at h
  · cases h
  · split at h <;> cases h
    next hp => exact (pushElement_interruptLeaves hp).respond _

theorem execPhyEdgeirq_interruptLeaves (h : execPhyEdgeirq s = .next t) : InterruptLeaves s t := by
  obtain ⟨-, h⟩ := withPhyInitialised_next h
  split at h <;> cases h
  · obtain ⟨-, ht⟩ | ⟨-, ht⟩ := takeEdge_cases (s := s) rfl <;> rw [ht]
    · exact ⟨rfl, rfl, rfl, rfl, rfl, rfl, rfl, rfl⟩
    · exact ⟨rfl, rfl, rfl, rfl, rfl, rfl, rfl, rfl⟩
  · exact ⟨rfl, rfl, rfl, rfl, rfl, rfl, rfl, rfl⟩

/-- The completion of a frame pushes a byte or counts, and goes to Idle (R176). -/
theorem completeFrame_interruptLeaves {r : DecResult} (h : completeFrame r s = .next t) :
    InterruptLeaves s t := by
  obtain ⟨-, -, _, u, hp, rfl⟩ | ⟨-, rfl⟩ := completeFrame_cases h
  · have hu := pushElement_interruptLeaves hp
    exact ⟨hu.framers, rfl, rfl, rfl, rfl, hu.readIndex, hu.params, hu.fg⟩
  · exact ⟨rfl, rfl, rfl, rfl, rfl, rfl, rfl, rfl⟩

theorem tickRx_interruptLeaves {l : Bool} (h : tickRx l s = .next t) : InterruptLeaves s t := by
  have hset (d : Decoder) : InterruptLeaves s (s.setDec d) := ⟨rfl, rfl, rfl, rfl, rfl, rfl, rfl, rfl⟩
  obtain ⟨-, hc⟩ | ⟨-, rfl⟩ := tickRx_cases h
  · exact (hset _).trans (completeFrame_interruptLeaves hc)
  · exact hset _

theorem tickTx_interruptLeaves (h : tickTx s = .next t) : InterruptLeaves s t := by
  obtain ⟨-, rfl⟩ | ⟨-, -, rfl⟩ := tickTx_cases h
  · obtain ⟨-, hp⟩ | ⟨-, -, hp⟩ | ⟨-, -, hp⟩ := phyReadBack_cases s.phy <;> rw [hp]
    all_goals exact ⟨rfl, rfl, rfl, rfl, rfl, rfl, rfl, rfl⟩
  · exact ⟨rfl, rfl, rfl, rfl, rfl, rfl, rfl, rfl⟩

theorem execPhyTick_interruptLeaves {l : Bool} (h : execPhyTick l s = .next t) :
    InterruptLeaves s t := by
  obtain ⟨-, h⟩ := withPhyInitialised_next h
  split at h
  · cases h; exact (InterruptLeaves.refl s).respond _
  · split at h
    · obtain ⟨u, hu, rfl⟩ := thenRespond_cases h
      exact (tickRx_interruptLeaves hu).respond _
    · obtain ⟨u, hu, rfl⟩ := thenRespond_cases h
      exact (tickTx_interruptLeaves hu).respond _
    all_goals cases h

theorem exec_interruptLeaves (hp : i.performer = .irqOnly) (h : exec i s = .next t) :
    InterruptLeaves s t := by
  cases i with
  | fifoPush arg wide => exact execFifoPush_interruptLeaves h
  | phyEdgeirq => exact execPhyEdgeirq_interruptLeaves h
  | phyTick l => exact execPhyTick_interruptLeaves h
  | decStart | decEdge | decSample | decWant | decReset | frame22 | fmtword =>
    cases h; exact ⟨rfl, rfl, rfl, rfl, rfl, rfl, rfl, rfl⟩
  | fifoInit | fifoPop | fifoPeek | fifoReadn | fifoClear | fifoCap | fifoLen | fifoFree | phyInit
  | phyTxen | phyWrite | phyRead | fmt | pktInit | pktRxbyte | pktSend | pkthdr => cases hp

/-! ## What the foreground leaves -/

/-- The state of the interrupt agent is as it was, but for the FIFO's write end (R73). -/
structure ForegroundLeaves (s t : State) : Prop where
  params : t.params = s.params
  dec : t.dec = s.dec
  driven : t.driven = s.driven
  /-- `PHY.TXEN` writes these two fields (R172). -/
  phy : t.phy = { s.phy with txEnabled := t.phy.txEnabled, rstLine := t.phy.rstLine }

/-- The state of the interrupt agent is as it was, the FIFO's write end included. -/
structure ForegroundOnly (s t : State) : Prop extends ForegroundLeaves s t where
  writeIndex : t.fifo.wr = s.fifo.wr
  store : t.fifo.store = s.fifo.store

/-- The output line, the last bit sent and the counters are as they were. -/
structure SameLine (p q : Phy) : Prop where
  din : q.din = p.din
  lastTxBit : q.lastTxBit = p.lastTxBit
  logStart : q.logStart = p.logStart
  logParity : q.logParity = p.logParity
  logStop : q.logStop = p.logStop
  logOffduty : q.logOffduty = p.logOffduty
  logOverflow : q.logOverflow = p.logOverflow
  logReentrant : q.logReentrant = p.logReentrant

theorem ForegroundLeaves.sameLine (h : ForegroundLeaves s t) : SameLine s.phy t.phy := by
  rw [h.phy]
  exact ⟨rfl, rfl, rfl, rfl, rfl, rfl, rfl, rfl⟩

theorem ForegroundLeaves.sameBus (h : ForegroundLeaves s t) : SameBus s.phy t.phy := by
  rw [h.phy]
  exact sameBus_resetLine _ _ _

theorem ForegroundLeaves.trans (h₁ : ForegroundLeaves s t) (h₂ : ForegroundLeaves t u) :
    ForegroundLeaves s u :=
  ⟨h₂.params.trans h₁.params, h₂.dec.trans h₁.dec, h₂.driven.trans h₁.driven,
    h₂.phy.trans (by rw [h₁.phy])⟩

theorem ForegroundLeaves.refl (s : State) : ForegroundLeaves s s := ⟨rfl, rfl, rfl, rfl⟩

theorem setFg_foregroundLeaves (s : State) (fs : List FgFrame) : ForegroundLeaves s (s.setFg fs) :=
  ⟨rfl, rfl, rfl, rfl⟩

theorem setFg_respond_foregroundLeaves (s : State) (fs : List FgFrame) (r : Response) :
    ForegroundLeaves s ((s.setFg fs).respond r) :=
  ⟨rfl, rfl, rfl, rfl⟩

theorem setFgIn_foregroundLeaves (s : State) (is : List Input) : ForegroundLeaves s (s.setFgIn is) :=
  ⟨rfl, rfl, rfl, rfl⟩

theorem respond_foregroundLeaves (s : State) (r : Response) : ForegroundLeaves s (s.respond r) :=
  ⟨rfl, rfl, rfl, rfl⟩

theorem respond_foregroundOnly (s : State) (r : Response) : ForegroundOnly s (s.respond r) :=
  ⟨respond_foregroundLeaves s r, rfl, rfl⟩

/-! ### The operations of the foreground -/

theorem popAndRespond_foregroundOnly {want : Bool} (h : popAndRespond want s = .next t) :
    ForegroundOnly s t := by
  obtain ⟨-, ⟨-, rfl⟩ | ⟨-, -, rfl⟩⟩ := popAndRespond_cases h
  · exact respond_foregroundOnly s _
  · exact ⟨⟨rfl, rfl, rfl, rfl⟩, rfl, rfl⟩

theorem execFifoPeek_foregroundOnly (h : execFifoPeek s = .next t) : ForegroundOnly s t := by
  have h := withValidFifo_next h
  split at h <;> cases h
  · exact respond_foregroundOnly s _
  · exact respond_foregroundOnly s _

/-- On an initialised block `PHY.INIT` only answers (R171). -/
theorem execPhyInit_foregroundOnly (ha : s.instanceActive = true) (h : execPhyInit s = .next t) :
    ForegroundOnly s t := by
  rw [execPhyInit, if_pos ha] at h
  cases h
  exact respond_foregroundOnly s _

theorem execPhyTxen_foregroundOnly {e : Bool} (h : execPhyTxen e s = .next t) :
    ForegroundOnly s t := by
  obtain ⟨-, h⟩ := withPhyInitialised_next h
  cases h
  exact ⟨⟨rfl, rfl, rfl, rfl⟩, rfl, rfl⟩

theorem execPhyWrite_foregroundOnly {data : Option (List Byte)} {len : Nat}
    (h : execPhyWrite data len s = .next t) : ForegroundOnly s t := by
  unfold execPhyWrite at h
  split at h <;> cases h
  · exact respond_foregroundOnly s _
  · exact ⟨setFg_respond_foregroundLeaves s _ _, rfl, rfl⟩

theorem framerGoesOn_foregroundOnly (n : Nat) (k : Framer) (s : State) :
    ForegroundOnly s (framerGoesOn n k s) :=
  ⟨⟨rfl, rfl, rfl, rfl⟩, rfl, rfl⟩

theorem deliver_foregroundOnly (n : Nat) (k : Framer) (s : State) :
    ForegroundOnly s (deliver n k s) := by
  obtain ⟨_, -, -, ht⟩ | ⟨-, ht⟩ := deliver_cases (s := s) (n := n) (k := k) rfl <;> rw [ht]
  · exact ⟨⟨rfl, rfl, rfl, rfl⟩, rfl, rfl⟩
  · exact ⟨⟨rfl, rfl, rfl, rfl⟩, rfl, rfl⟩

/-- A byte taken by a framer is delivered, or the framer goes on (R212). -/
theorem framerTake_foregroundOnly {n : Nat} {b : Byte} (h : framerTake n b s = .next t) :
    ForegroundOnly s t := by
  obtain ⟨-, rfl⟩ | ⟨-, rfl⟩ | ⟨-, rfl⟩ | ⟨-, -, rfl⟩ | ⟨-, -, rfl⟩ | ⟨-, -, -, rfl⟩ |
    ⟨-, -, -, rfl⟩ := framerTake_cases h
  · exact framerGoesOn_foregroundOnly _ _ _
  · exact framerGoesOn_foregroundOnly _ _ _
  · exact framerGoesOn_foregroundOnly _ _ _
  · exact deliver_foregroundOnly _ _ _
  · exact framerGoesOn_foregroundOnly _ _ _
  · exact deliver_foregroundOnly _ _ _
  · exact framerGoesOn_foregroundOnly _ _ _

theorem execPktRxbyte_foregroundOnly {b : OnStack Byte} (h : execPktRxbyte b s = .next t) :
    ForegroundOnly s t := by
  have h := withFramer_next h
  split at h
  · cases h
  · exact framerTake_foregroundOnly h

theorem execPktSend_foregroundOnly {dest : OnStack Byte} {op len : Byte} {data : Option (List Byte)}
    (h : execPktSend dest op data len s = .next t) : ForegroundOnly s t := by
  have h := withFramer_next h
  split at h
  · cases h; exact respond_foregroundOnly s _
  · simp only at h
    split at h <;> cases h
    all_goals exact ⟨⟨rfl, rfl, rfl, rfl⟩, rfl, rfl⟩

/-- What an operation that the foreground may perform leaves, when it neither initialises the block nor
constructs or releases the FIFO. -/
theorem exec_foregroundOnly (hp : i.performer ≠ .irqOnly)
    (hi : i = .phyInit → s.instanceActive = true) (hfree : i ≠ .fifoFree)
    (hinit : ∀ c e, i ≠ .fifoInit c e) (h : exec i s = .next t) : ForegroundOnly s t := by
  cases i with
  | fifoInit c e => exact absurd rfl (hinit c e)
  | fifoFree => exact absurd rfl hfree
  | fifoPop want => exact popAndRespond_foregroundOnly h
  | fifoPeek => exact execFifoPeek_foregroundOnly h
  | fifoReadn | fifoClear | fifoCap | fifoLen =>
    cases withValidFifo_next h
    exact ⟨⟨rfl, rfl, rfl, rfl⟩, rfl, rfl⟩
  | phyInit => exact execPhyInit_foregroundOnly (hi rfl) h
  | phyTxen e => exact execPhyTxen_foregroundOnly h
  | phyWrite data len => exact execPhyWrite_foregroundOnly h
  | phyRead => exact popAndRespond_foregroundOnly (withPhyInitialised_next h).2
  | pktRxbyte b => exact execPktRxbyte_foregroundOnly h
  | pktSend dest op data len => exact execPktSend_foregroundOnly h
  | fmt | pktInit | pkthdr => cases h; exact ⟨⟨rfl, rfl, rfl, rfl⟩, rfl, rfl⟩
  | fifoPush | decStart | decEdge | decSample | decWant | decReset | phyEdgeirq | phyTick | frame22
  | fmtword => exact absurd rfl hp

theorem execFifoInit_foregroundLeaves {c e : Size} (h : execFifoInit c e s = .next t) :
    ForegroundLeaves s t := by
  unfold execFifoInit at h
  split at h <;> cases h
  exact ⟨rfl, rfl, rfl, rfl⟩

theorem execFifoFree_foregroundLeaves (h : execFifoFree s = .next t) : ForegroundLeaves s t := by
  cases withValidFifo_next h
  exact ⟨rfl, rfl, rfl, rfl⟩

/-- What an operation that the foreground may perform leaves, when it does not initialise the block. -/
theorem exec_foregroundLeaves (hp : i.performer ≠ .irqOnly)
    (hi : i = .phyInit → s.instanceActive = true) (h : exec i s = .next t) : ForegroundLeaves s t := by
  by_cases hfree : i = .fifoFree
  · subst hfree
    exact execFifoFree_foregroundLeaves h
  by_cases hinit : ∃ c e, i = .fifoInit c e
  · obtain ⟨c, e, rfl⟩ := hinit
    exact execFifoInit_foregroundLeaves h
  · exact (exec_foregroundOnly hp hi hfree (fun c e hc => hinit ⟨c, e, hc⟩) h).toForegroundLeaves

/-! ### The turns of the foreground -/

theorem runCode_fg_leaves {c : Code} (ha : s.instanceActive = true) (h : runCode .fg c s = .next t) :
    ForegroundLeaves s t := by
  obtain ⟨i, -, hallows, ⟨-, rfl⟩ | ⟨-, hexec⟩⟩ := runCode_cases h
  · exact respond_foregroundLeaves s _
  · refine exec_foregroundLeaves (fun hp => ?_) (fun _ => ha) hexec
    rw [hp] at hallows
    exact absurd hallows (by decide)

theorem expandPseudo_leaves {a : Agent} {p : Pseudo} (h : expandPseudo a p s = .next t) :
    ForegroundLeaves s t := by
  obtain ⟨-, ins, rfl⟩ | ⟨-, f, rfl⟩ := expandPseudo_cases h
  · exact ⟨rfl, rfl, rfl, rfl⟩
  · exact setFg_respond_foregroundLeaves s _ _

theorem returnFromCallback_leaves {st : Status} (h : returnFromCallback st s = .next t) :
    ForegroundLeaves s t := by
  obtain ⟨_, -, rfl⟩ | ⟨_, _, -, rfl⟩ := returnFromCallback_cases h
  · exact setFg_respond_foregroundLeaves s _ _
  · exact setFg_respond_foregroundLeaves s _ _

theorem fgInput_leaves (ha : s.instanceActive = true) (h : fgInput s = .next t) :
    ForegroundLeaves s t := by
  obtain ⟨-, rfl⟩ | ⟨_, rest, -, h⟩ | ⟨_, rest, -, h⟩ | ⟨_, rest, -, h⟩ := fgInput_cases h
  · exact .refl _
  all_goals refine (setFgIn_foregroundLeaves s rest).trans ?_
  · exact runCode_fg_leaves ha h
  · exact expandPseudo_leaves h
  · exact returnFromCallback_leaves h

theorem checkStep_leaves {data : Option (List Byte)} {len : Nat} {fs : List FgFrame}
    (h : checkStep data len fs s = .next t) : ForegroundLeaves s t := by
  obtain ⟨_, -, rfl⟩ | ⟨-, rfl⟩ := checkStep_cases h
  · exact setFg_respond_foregroundLeaves s _ _
  · exact setFg_respond_foregroundLeaves s _ _

theorem pollRead_leaves {n : Nat} {fs : List FgFrame} (h : exec .phyRead s = .next u) :
    ForegroundLeaves s (pollAfterRead n fs u) := by
  have hread := popAndRespond_foregroundOnly (withPhyInitialised_next h).2
  obtain ⟨gs, hgs, -⟩ := pollAfterRead_eq n fs u
  rw [hgs]
  exact hread.toForegroundLeaves.trans (setFg_foregroundLeaves u gs)

/-- A byte that a `PKT.POLL` or a `PKT.RXBUF` hands on. -/
theorem handOn_leaves {n : Nat} {b : Byte} {fs : List FgFrame}
    (h : exec (.pktRxbyte ⟨n, b⟩) (s.setFg fs) = .next t) : ForegroundLeaves s t :=
  (setFg_foregroundLeaves s fs).trans (execPktRxbyte_foregroundOnly h).toForegroundLeaves

/-- Every turn but the begin step of `PHY.WRITE` leaves the interrupt agent's state. -/
theorem fgTurn_leaves (ha : s.instanceActive = true)
    (hbegin : ∀ data len inSend fs, s.fg ≠ .writeBegin data len inSend :: fs)
    (h : fgTurn s = .next t) : ForegroundLeaves s t := by
  obtain ⟨_, _, _, -, h⟩ | ⟨_, _, _, _, hf, -⟩ | ⟨_, _, -, ⟨-, rfl⟩ | ⟨-, rfl⟩⟩ |
    ⟨_, _, _, -, hread, rfl⟩ | ⟨_, _, _, -, h⟩ | ⟨_, _, _, _, _, -, h⟩ | ⟨_, _, _, -, rfl⟩ |
    ⟨-, h⟩ := fgTurn_cases h
  · exact checkStep_leaves h
  · exact absurd hf (hbegin _ _ _ _)
  · exact respond_foregroundLeaves s _
  · exact setFg_respond_foregroundLeaves s _ _
  · exact pollRead_leaves hread
  · exact handOn_leaves h
  · exact handOn_leaves h
  · exact setFg_respond_foregroundLeaves s _ _
  · exact fgInput_leaves ha h

/-- The begin step of `PHY.WRITE` drives nothing and counts nothing (R194). -/
theorem writeBegin_leaves {data : Option (List Byte)} {len : Nat} {inSend : Bool} {fs : List FgFrame}
    (h : writeBegin data len inSend fs s = .next t) :
    t.dec = s.dec ∧ SameLine s.phy t.phy ∧ t.driven = s.driven := by
  obtain ⟨-, -, -, rfl⟩ := writeBegin_cases h
  exact ⟨rfl, ⟨rfl, rfl, rfl, rfl, rfl, rfl, rfl, rfl⟩, rfl⟩

/-- No turn of the foreground writes the decoder, the output line or a counter. -/
theorem fgTurn_line (ha : s.instanceActive = true) (h : fgTurn s = .next t) :
    t.dec = s.dec ∧ SameLine s.phy t.phy ∧ t.driven = s.driven := by
  by_cases hbegin : ∃ data len inSend fs, s.fg = .writeBegin data len inSend :: fs
  · obtain ⟨data, len, inSend, fs, hf⟩ := hbegin
    refine writeBegin_leaves (data := data) (len := len) (inSend := inSend) (fs := fs) ?_
    simpa only [fgTurn, hf] using h
  · have hleaves := fgTurn_leaves ha (fun d l b fs hf => hbegin ⟨d, l, b, fs, hf⟩) h
    exact ⟨hleaves.dec, hleaves.sameLine, hleaves.driven⟩

/-- Settles O60: what each agent leaves, read off field by field. -/
theorem agentsWriteOnlyTheirOwnState : Obligations.AgentsWriteOnlyTheirOwnState := by
  refine ⟨fun i s t h => ⟨fun hp => ?_, fun hp hi => ?_⟩, fun s t ha h => ?_⟩
  · obtain ⟨hframers, htxbuf, htxLen, henable, hrst, hrd, hparams, hfg⟩ := exec_interruptLeaves hp h
    exact ⟨hframers, htxbuf, htxLen, henable, hrst, hrd, hparams, hfg⟩
  · have hnot : i.performer ≠ .irqOnly := fun hq => absurd (hp.symm.trans hq) (by decide)
    have hl := exec_foregroundLeaves hnot (fun hc => absurd hc hi) h
    obtain ⟨hdin, hlast, hstart, hparity, hstop, hoffduty, hoverflow, hreentrant⟩ := hl.sameLine
    obtain ⟨hbus, htimer, hedge, htxbuf, htxLen, hbyte, hbit, hphase, -⟩ := hl.sameBus
    refine ⟨hl.dec, hdin, hlast, hstart, hparity, hstop, hoffduty, hoverflow, hreentrant,
      hbus, htimer, hedge, hbyte, hbit, hphase, htxbuf, htxLen, hl.params, hl.driven, fun hfree hinit => ?_⟩
    have ho := exec_foregroundOnly hnot (fun hc => absurd hc hi) hfree hinit h
    exact ⟨ho.writeIndex, ho.store⟩
  · obtain ⟨hdec, ⟨hdin, hlast, hstart, hparity, hstop, hoffduty, hoverflow, hreentrant⟩,
      hdriven⟩ := fgTurn_line ha h
    refine ⟨hdec, hdin, hlast, hstart, hparity, hstop, hoffduty, hoverflow, hreentrant, hdriven,
      fun hbegin => ?_⟩
    obtain ⟨hbus, htimer, hedge, htxbuf, htxLen, hbyte, hbit, hphase, -⟩ :=
      (fgTurn_leaves ha hbegin h).sameBus
    exact ⟨hbus, htimer, hedge, hbyte, hbit, hphase, htxbuf, htxLen⟩

end Sys2Proof.Machine
end

section
/-! # Codes and operations (spec/30_encoding.md R91, R93, R94, R101, R103)

Word by word, an encoded operation is read back and a word that is read is the one encoded; the decoder's checks of
the operands then hold on both sides, by `decode_ok`. -/

namespace Sys2Proof

variable {op arg : Byte} {o : OutOfBand} {c : Code} {i j : Instr} {n : Nat}

/-! ## From the operation to its word and back -/

/-- An operation word is read by the table of R103. -/
theorem decodeWord_opWord (op arg : Byte) (o : OutOfBand) :
    decodeWord ⟨.opw, (opWord op arg).setWidth 32, o⟩ = decodeOp op arg o := by
  simp only [decodeWord, opWord_above, opWord_op, opWord_arg, if_true]

theorem withBitArg_bitOf (op : Byte) (b : Bool) (f : Bool → Instr) :
    withBitArg op (bitOf 8 b) f = .ok (f b) := by
  cases b <;> rfl

/-- The samples of a `FRAME22` fill the 22 bits of its format (R91). -/
theorem decodeWord_frame22 (w : BitVec 22) (o : OutOfBand) :
    decodeWord ⟨.frame22, w.setWidth 32, o⟩ = .ok (.frame22 w) := by
  have habove : (w.setWidth 32).extractLsb' 22 10 = 0 := by
    ext k hk
    simp
  have hsamples : (w.setWidth 32).extractLsb' 0 22 = w := by
    rw [BitVec.extractLsb'_setWidth_of_le (by omega)]
    exact BitVec.extractLsb'_eq_self
  simp only [decodeWord, habove, hsamples, if_true]

/-- The data bits and the parity bit stand apart from one another and from the fixed bits (R93). -/
theorem decodeWord_fmtword (b : Byte) (p : Bool) (o : OutOfBand) :
    decodeWord ⟨.fmtword, fmtwordBits b p, o⟩ = .ok (.fmtword b p) := by
  have hread : ∀ (b : Byte) (p : Bool), fmtwordMatches (fmtwordBits b p) = true ∧
      fmtwordByte (fmtwordBits b p) = b ∧ (fmtwordBits b p).getLsbD 18 = p := by decide
  obtain ⟨hfixed, hbyte, hparity⟩ := hread b p
  simp only [decodeWord, hfixed, hbyte, hparity, if_true]

/-- The four header bytes stand one beside the other, byte 0 highest (R94). -/
theorem decodeWord_pkthdr (a : OnStack Byte) (d op len : Byte) (o : OutOfBand) (ho : o.stack = a.stack) :
    decodeWord ⟨.pkthdr, a.operand ++ d ++ op ++ len, o⟩ = .ok (.pkthdr a d op len) := by
  have h24 : (a.operand ++ d ++ op ++ len).extractLsb' 24 8 = a.operand := by
    rw [BitVec.extractLsb'_append_eq_of_le (by omega), BitVec.extractLsb'_append_eq_of_le (by omega)]
    exact BitVec.extractLsb'_append_eq_left
  have h16 : (a.operand ++ d ++ op ++ len).extractLsb' 16 8 = d := by
    rw [BitVec.extractLsb'_append_eq_of_le (by omega), BitVec.extractLsb'_append_eq_of_le (by omega)]
    exact BitVec.extractLsb'_append_eq_right
  have h8 : (a.operand ++ d ++ op ++ len).extractLsb' 8 8 = op := by
    rw [BitVec.extractLsb'_append_eq_of_le (by omega)]
    exact BitVec.extractLsb'_append_eq_right
  have h0 : (a.operand ++ d ++ op ++ len).extractLsb' 0 8 = len := BitVec.extractLsb'_append_eq_right
  simp only [decodeWord, h24, h16, h8, h0, ho]

theorem decodeWord_encode (i : Instr) : decodeWord (encode i) = .ok i := by
  cases i with
  | frame22 samples => exact decodeWord_frame22 samples _
  | fmtword b p => exact decodeWord_fmtword b p _
  | pkthdr a d op len => exact decodeWord_pkthdr a d op len _ rfl
  | fifoPop | decSample | phyTxen | phyTick =>
    exact (decodeWord_opWord _ _ _).trans (withBitArg_bitOf _ _ _)
  | fifoInit | fifoPush | fifoPeek | fifoReadn | fifoClear | fifoCap | fifoLen | fifoFree | decStart
  | decEdge | decWant | decReset | phyInit | phyWrite | phyRead | phyEdgeirq | fmt | pktInit | pktRxbyte
  | pktSend =>
    exact (decodeWord_opWord _ _ _).trans rfl

/-- Settles O47: the word is read back, the operands are the operation's own, and they are well formed. -/
theorem decodeReadsBackEncode : Obligations.DecodeReadsBackEncode :=
  fun i hwf => decode_ok.2 ⟨decodeWord_encode i, rfl, hwf⟩

/-! ## From a word that is read to the operation it encodes -/

/-- A word with nothing above its low `n` bits is those bits. -/
theorem setWidth_low_eq {w : BitVec 32} {n k : Nat} (hn : n + k = 32) (h : w.extractLsb' n k = 0) :
    (w.extractLsb' 0 n).setWidth 32 = w := by
  apply BitVec.eq_of_getLsbD_eq
  intro b hb
  by_cases hlow : b < n
  · simp [hlow, hb]
  · have habove : (w.extractLsb' n k).getLsbD (b - n) = w.getLsbD b := by
      rw [BitVec.getLsbD_extractLsb', show n + (b - n) = b by omega]
      simp [show b - n < k by omega]
    have hzero : w.getLsbD b = false := by rw [← habove, h]; exact BitVec.getLsbD_zero
    simp [hlow, hzero]

theorem fmtwordByte_getElem (w : BitVec 32) {k : Nat} (hk : k < 8) :
    (fmtwordByte w)[k] = w.getLsbD (2 * k + 2) := by
  interval_cases k <;> simp [fmtwordByte, bitOf]

/-- A word with the fixed bits of `FMTWORD` is that of its data byte and parity bit: each bit is fixed, or put where
it was read (R93). -/
theorem fmtwordBits_of_matches {w : BitVec 32} (h : fmtwordMatches w = true) :
    fmtwordBits (fmtwordByte w) (w.getLsbD 18) = w := by
  have hfixed (b : Nat) : (w &&& 0xFFFAAAAB#32).getLsbD b = (0x003AAAAA#32).getLsbD b := by
    rw [eq_of_beq h]
  apply BitVec.eq_of_getLsbD_eq
  intro b hb
  have hbit := hfixed b
  interval_cases b <;> simp_all [fmtwordBits, bitOf, fmtwordByte_getElem]

theorem opWord_of_toNat (hop : op.toNat = n) (a : Byte) : opWord (BitVec.ofNat 8 n) a = opWord op a := by
  rw [← hop, BitVec.ofNat_toNat, BitVec.setWidth_eq]

theorem withoutArg_word (hop : op.toNat = n) (hf : i.format = .opw)
    (hw : i.word = (opWord (BitVec.ofNat 8 n) 0).setWidth 32) (h : withoutArg op arg i = .ok j) :
    j.format = .opw ∧ j.word = (opWord op arg).setWidth 32 := by
  obtain ⟨rfl, rfl⟩ := withoutArg_ok.1 h
  exact ⟨hf, by rw [hw, opWord_of_toNat hop]⟩

theorem withBitArg_word {f : Bool → Instr} (hop : op.toNat = n) (hf : ∀ b, (f b).format = .opw)
    (hw : ∀ b, (f b).word = (opWord (BitVec.ofNat 8 n) (bitOf 8 b)).setWidth 32)
    (h : withBitArg op arg f = .ok j) : j.format = .opw ∧ j.word = (opWord op arg).setWidth 32 := by
  obtain ⟨harg, rfl⟩ := withBitArg_ok.1 h
  exact ⟨hf _, by rw [hw, ← harg, opWord_of_toNat hop]⟩

theorem wholeArg_word (hop : op.toNat = n) (hf : i.format = .opw)
    (hw : i.word = (opWord (BitVec.ofNat 8 n) arg).setWidth 32) (h : Except.ok (ε := DecodeError) i = .ok j) :
    j.format = .opw ∧ j.word = (opWord op arg).setWidth 32 := by
  cases h
  exact ⟨hf, by rw [hw, opWord_of_toNat hop]⟩

/-- Row by row, what the table of R103 reads is encoded in the bytes it was read from. The rows named first use
bit 0 of `arg`, those named next all of it; the others use none. -/
theorem decodeOp_word (h : decodeOp op arg o = .ok i) :
    i.format = .opw ∧ i.word = (opWord op arg).setWidth 32 := by
  unfold decodeOp at h
  split at h
  case h_3 hop | h_12 hop | h_16 hop | h_20 hop =>
    exact withBitArg_word hop (fun _ => rfl) (fun _ => rfl) h
  case h_2 hop | h_21 hop | h_22 hop | h_23 hop => exact wholeArg_word hop rfl rfl h
  case h_25 => cases h
  all_goals next hop => exact withoutArg_word hop rfl rfl h

/-- What a word is read as encodes to that word, in its format. -/
theorem decodeWord_word (h : decodeWord c = .ok i) : i.format = c.format ∧ i.word = c.word := by
  obtain ⟨format, word, o⟩ := c
  cases format <;> simp only [decodeWord] at h
  case opw =>
    split at h
    · next habove =>
      obtain ⟨hformat, hword⟩ := decodeOp_word h
      have hbytes : opWord (word.extractLsb' 8 8) (word.extractLsb' 0 8) = word.extractLsb' 0 16 :=
        BitVec.extractLsb'_append_extractLsb'_eq_extractLsb' rfl
      exact ⟨hformat, by rw [hword, hbytes, setWidth_low_eq rfl habove]⟩
    · cases h
  case frame22 =>
    split at h <;> cases h
    next habove => exact ⟨rfl, setWidth_low_eq rfl habove⟩
  case fmtword =>
    split at h <;> cases h
    next hfixed => exact ⟨rfl, fmtwordBits_of_matches hfixed⟩
  case pkthdr =>
    cases h
    have hhalf : word.extractLsb' 24 8 ++ word.extractLsb' 16 8 = word.extractLsb' 16 16 :=
      BitVec.extractLsb'_append_extractLsb'_eq_extractLsb' rfl
    have hthree : word.extractLsb' 16 16 ++ word.extractLsb' 8 8 = word.extractLsb' 8 24 :=
      BitVec.extractLsb'_append_extractLsb'_eq_extractLsb' rfl
    refine ⟨rfl, ?_⟩
    rw [Instr.word, hhalf, hthree]
    exact BitVec.extractLsb'_append_extractLsb'

/-- Settles O48: the word is the one read, and the decoder has checked the operands to be the operation's own. -/
theorem encodeReadsBackDecode : Obligations.EncodeReadsBackDecode := by
  intro c i h
  obtain ⟨hdecoded, hoperands, -⟩ := decode_ok.1 h
  obtain ⟨hformat, hword⟩ := decodeWord_word hdecoded
  rw [encode, hformat, hword, ← hoperands]

/-! ## Words that name no operation -/

theorem decode_error {e : DecodeError} (h : decodeWord c = .error e) : decode c = .error e := by
  rw [decode, h]

theorem withoutArg_error (h : arg ≠ 0) : withoutArg op arg i = .error (.unusedArgBits op arg) := if_neg h

theorem withBitArg_error {f : Bool → Instr} (h : 1 < arg.toNat) :
    withBitArg op arg f = .error (.unusedArgBits op arg) := by
  refine if_neg fun hbits => ?_
  have hsmall : ∀ a : Byte, a.extractLsb' 1 7 = 0 → a.toNat ≤ 1 := by decide
  have := hsmall arg hbits
  omega

/-- The operations that do not use `arg` (R103; `FIFO.PUSH` uses it or not by `F.esz`). -/
theorem decodeOp_unusedArg
    (hop : op ∈ [0x00, 0x03, 0x04, 0x05, 0x06, 0x07, 0x08, 0x10, 0x11, 0x13, 0x14, 0x20, 0x22, 0x23, 0x24,
      0x32]) (harg : arg ≠ 0) : decodeOp op arg o = .error (.unusedArgBits op arg) := by
  fin_cases hop <;> exact withoutArg_error harg

/-- The operations that use bit 0 of `arg` (R103). -/
theorem decodeOp_unusedBits (hop : op ∈ [0x02, 0x12, 0x21, 0x25]) (harg : 1 < arg.toNat) :
    decodeOp op arg o = .error (.unusedArgBits op arg) := by
  fin_cases hop <;> exact withBitArg_error harg

/-- The table has no row outside its four ranges (R103). -/
theorem decodeOp_unlisted
    (h : ¬ (op.toNat ≤ 0x08 ∨ 0x10 ≤ op.toNat ∧ op.toNat ≤ 0x14 ∨ 0x20 ≤ op.toNat ∧ op.toNat ≤ 0x26 ∨
      0x30 ≤ op.toNat ∧ op.toNat ≤ 0x32)) : decodeOp op arg o = .error (.unknownOperation op) := by
  unfold decodeOp
  split
  case h_25 => rfl -- no row of the table
  all_goals next hop => exact absurd hop (by omega)

/-- A code that encodes an operation is the table word of that operation. -/
theorem decodeTableWord_of_encode {nbits w : Nat} (h : tableCode nbits w = encode i) (hwf : i.wf = true) :
    decodeTableWord nbits w = some i := by
  rw [decodeTableWord, h, decodeReadsBackEncode i hwf]

/-- Settles O50: each word is the one that its operation encodes to, and O47 reads it back. -/
theorem tableWordsDecode : Obligations.TableWordsDecode := by
  refine ⟨?_, ?_, ?_, ?_, ?_, ?_, ?_⟩ <;> exact decodeTableWord_of_encode rfl rfl

end Sys2Proof

namespace Sys2Proof.Machine

variable {s : State} {c : Code} {e : DecodeError}

theorem runCode_error {a : Agent} (h : decode c = .error e) :
    runCode a c s = .refused (.invalidWord e) := by
  rw [runCode, h]

/-- Of a push with elements that are not one byte `arg` is unused, and a set bit of it is refused (R101, R103). -/
theorem execFifoPush_unusedArg {arg : Byte} {wide : List Byte} (hv : s.fifo.valid = true)
    (hesz : s.fifo.esz ≠ 1) (harg : arg ≠ 0) :
    execFifoPush arg wide s = .refused (.invalidWord (.unusedArgBits 0x01 arg)) := by
  have hinvalid : pushArgInvalid s.fifo.esz arg = true := by
    simpa [pushArgInvalid, hesz] using harg
  rw [execFifoPush, withValidFifo, if_pos hv, if_pos hinvalid]

/-- Settles O49: the decoder's three kinds of word, the turn of either agent, and the push. -/
theorem unlistedWordsAreInvalid : Obligations.UnlistedWordsAreInvalid := by
  refine ⟨fun op arg o => ⟨fun h => ?_, fun h => ?_⟩, fun s c e rest ins hedge hdecode => ⟨?_, ?_⟩, ?_⟩
  · refine decode_error ((decodeWord_opWord op arg o).trans ?_)
    obtain ⟨hop, harg⟩ | ⟨hop, harg⟩ := h
    · exact decodeOp_unusedArg hop harg
    · exact decodeOp_unusedBits hop harg
  · exact decode_error ((decodeWord_opWord op arg o).trans (decodeOp_unlisted h))
  · intro hsched hin
    rw [step_irq_op hedge hsched hin, runCode_error hdecode]
  · intro hsched hin hfg
    rw [step_fg_op hedge hsched hin hfg, runCode_error hdecode]
  · exact fun s arg wide hv hesz harg => execFifoPush_unusedArg hv hesz harg

end Sys2Proof.Machine
end

section
/-! # Operations without a meaning (spec/30_encoding.md R102)

Each refusal is that of the guard an operation stands behind, or of the one state of its unit in which the spec gives it
no meaning. -/

namespace Sys2Proof.Machine

variable {s : State}

/-! ## The guards -/

theorem withValidFifo_refused (hv : s.fifo.valid = false) (o : Out) :
    withValidFifo s o = .refused .fifoNotValid := by
  simp [withValidFifo, hv]

theorem withPhyInitialised_refused (ha : s.instanceActive = false) (o : Out) :
    withPhyInitialised s o = .refused .phyNotInitialised := by
  simp [withPhyInitialised, ha]

theorem withPhyInitialised_pass (ha : s.instanceActive = true) (o : Out) :
    withPhyInitialised s o = o := if_pos ha

theorem withFramer_refused {n : Nat} (hc : (s.framer n).constructed = false) (o : Out) :
    withFramer n s o = .refused .framerNotConstructed := by
  simp [withFramer, hc]

theorem withFramer_pass {n : Nat} (hc : (s.framer n).constructed = true) (o : Out) :
    withFramer n s o = o := if_pos hc

/-! ## The operations behind them -/

theorem execPhyWrite_refused (ha : s.instanceActive = false) (data : Option (List Byte)) (len : Nat) :
    execPhyWrite data len s = .refused .phyNotInitialised := by
  simp [execPhyWrite, writeCheck, ha]

theorem execPhyTick_rx {l : Bool} (ha : s.instanceActive = true) (ht : s.phy.timerRunning = true)
    (hb : s.phy.busState = .rx) : execPhyTick l s = thenRespond (.status .ok) (tickRx l s) := by
  simp [execPhyTick, withPhyInitialised_pass ha, ht, hb]

theorem execPhyTick_outside {l : Bool} (ha : s.instanceActive = true) (ht : s.phy.timerRunning = true)
    (hrx : s.phy.busState ≠ .rx) (htx : s.phy.busState ≠ .tx) :
    execPhyTick l s = .refused .tickOutsideRxTx := by
  cases hb : s.phy.busState with
  | rx => exact absurd hb hrx
  | tx => exact absurd hb htx
  | idle | wait | unknown => simp [execPhyTick, withPhyInitialised_pass ha, ht, hb]

/-- The 22nd sample of a frame, of level 1 where only stuffing is left to check: the frame is finished with the flags it
has had (41_rx_decoder R154). -/
theorem decFeedTick_lastStuffing {d : Decoder} (ho : d.ongoing = true) (he : d.expectingEdge = false)
    (ht : d.totalCnt = 21) (hs : d.expectingOffduty = true) :
    decFeedTick true d = (⟨true, true, d.data, d.errorFlags⟩, Decoder.zero) := by
  simp [decFeedTick, decWant, decSample, ho, he, ht, decAbsorb_stuffing hs, raiseFlag]

theorem completeFrame_refused {r : DecResult} (hr : r.errorFlags = 0) (hv : s.fifo.valid = false) :
    completeFrame r s = .refused .fifoNotValid := by
  simp [completeFrame, hr, hv]

/-- Settles O54, refusal by refusal. -/
theorem operationsBeforeInitRefused : Obligations.OperationsBeforeInitRefused := by
  intro s
  refine ⟨fun hv i hi => ?_, fun ha i hi => ?_, fun n hc i hi => ?_, fun hv ha => ?_, fun hv c e => ?_,
    fun ha hv => ?_, fun ha ht hb ho he hcnt hoff hflags hv => ?_, fun ha ht hrx htx l => ?_,
    fun n hc hin b => ?_⟩
  · obtain rfl | rfl | rfl | rfl | rfl | ⟨_, rfl⟩ | ⟨_, rfl⟩ | ⟨_, _, rfl⟩ := hi <;>
      exact withValidFifo_refused hv _
  · obtain rfl | rfl | ⟨_, rfl⟩ | ⟨_, rfl⟩ | ⟨_, _, rfl⟩ := hi
    · exact withPhyInitialised_refused ha _
    · exact withPhyInitialised_refused ha _
    · exact withPhyInitialised_refused ha _
    · exact withPhyInitialised_refused ha _
    · exact execPhyWrite_refused ha _ _
  · obtain ⟨_, rfl⟩ | ⟨_, _, _, _, rfl⟩ := hi <;> exact withFramer_refused hc _
  · show execPhyInit s = _
    simp [execPhyInit, ha, hv]
  · exact if_pos hv
  · exact (withPhyInitialised_pass ha _).trans (withValidFifo_refused hv _)
  · have hframe := decFeedTick_lastStuffing ho he hcnt hoff
    have hcomplete : completeFrame ⟨true, true, s.dec.data, s.dec.errorFlags⟩ (s.setDec Decoder.zero) =
        .refused .fifoNotValid := completeFrame_refused hflags hv
    have htick : tickRx true s = .refused .fifoNotValid := by simp [tickRx, hframe, hcomplete]
    exact (execPhyTick_rx ha ht hb).trans (by rw [htick, thenRespond])
  · exact execPhyTick_outside ha ht hrx htx
  · exact (withFramer_pass hc _).trans (if_pos hin)

end Sys2Proof.Machine
end

section
/-! # Pseudo-operations and wire formats (spec/30_encoding.md R106)

One lemma for the turn that each step is; what the turn does is then its definition read off. -/

namespace Sys2Proof.Machine

variable {s : State} {rest : List Agent} {ins : List Input} {n : Nat} {fs : List FgFrame}

/-! ## The turn that a step is -/

theorem step_irqTurn (he : edgeDeliverable s = false) (hsched : s.sched = .irq :: rest) :
    step s = irqTurn (s.setSched rest) := by
  simp [step, nextStep, he, hsched]

theorem step_fgTurn (he : edgeDeliverable s = false) (hsched : s.sched = .fg :: rest) :
    step s = fgTurn (s.setSched rest) := by
  simp [step, nextStep, he, hsched]

theorem step_irq_pseudo {p : Pseudo} (he : edgeDeliverable s = false) (hsched : s.sched = .irq :: rest)
    (hin : s.irqIn = .pseudo p :: ins) :
    step s = expandPseudo .irq p ((s.setSched rest).setIrqIn ins) := by
  rw [step_irqTurn he hsched]
  simp [irqTurn, hin]

theorem step_irq_txrunTick (he : edgeDeliverable s = false) (hsched : s.sched = .irq :: rest)
    (hin : s.irqIn = .txrunTick :: ins) :
    step s = exec (.phyTick (txrunLevel s)) ((s.setSched rest).setIrqIn ins).drawFree := by
  have hlevel : txrunLevel (s.setSched rest) = txrunLevel s := rfl
  rw [step_irqTurn he hsched]
  simp [irqTurn, hin, hlevel]

/-- Inside nothing or inside an application callback the foreground takes an input. -/
theorem fgTurn_takesInput
    (hfg : s.fg = [] ∨ ∃ fs, s.fg = .sendCb :: fs ∨ ∃ m, s.fg = .recvCb m :: fs) : fgTurn s = fgInput s := by
  obtain hf | ⟨_, hf | ⟨_, hf⟩⟩ := hfg <;> simp [fgTurn, hf]

theorem step_fg_pseudo {p : Pseudo} (he : edgeDeliverable s = false) (hsched : s.sched = .fg :: rest)
    (hfg : s.fg = [] ∨ ∃ fs, s.fg = .sendCb :: fs ∨ ∃ m, s.fg = .recvCb m :: fs)
    (hin : s.fgIn = .pseudo p :: ins) :
    step s = expandPseudo .fg p ((s.setSched rest).setFgIn ins) := by
  rw [step_fgTurn he hsched, fgTurn_takesInput (s := s.setSched rest) hfg]
  simp [fgInput, hin]

/-! ## What the foreground goes on with -/

theorem step_rxbuf_byte {b : Byte} {bs : List Byte} {failed : Bool} (he : edgeDeliverable s = false)
    (hsched : s.sched = .fg :: rest) (hf : s.fg = .rxbuf n (b :: bs) failed :: fs) :
    step s = exec (.pktRxbyte ⟨n, b⟩) ((s.setSched rest).setFg (.rxbuf n bs failed :: fs)) := by
  rw [step_fgTurn he hsched]
  simp [fgTurn, hf]

theorem step_rxbuf_end {failed : Bool} (he : edgeDeliverable s = false)
    (hsched : s.sched = .fg :: rest) (hf : s.fg = .rxbuf n [] failed :: fs) :
    step s = .next (((s.setSched rest).setFg fs).respond (.status (if failed then .cbFailed else .ok))) := by
  rw [step_fgTurn he hsched]
  simp [fgTurn, hf]

theorem step_poll_byte {b : Byte} (he : edgeDeliverable s = false) (hsched : s.sched = .fg :: rest)
    (hf : s.fg = .poll n (some b) :: fs) :
    step s = exec (.pktRxbyte ⟨n, b⟩) ((s.setSched rest).setFg (.poll n none :: fs)) := by
  rw [step_fgTurn he hsched]
  simp [fgTurn, hf]

theorem step_poll_read (he : edgeDeliverable s = false) (hsched : s.sched = .fg :: rest)
    (hf : s.fg = .poll n none :: fs) : step s = pollRead n fs (s.setSched rest) := by
  rw [step_fgTurn he hsched]
  simp [fgTurn, hf]

/-! ## The `PHY.READ` of `PKT.POLL` (42_phy_rx R177) -/

theorem popAndRespond_empty {want : Bool} (hv : s.fifo.valid = true) (hempty : s.fifo.rd = s.fifo.wr) :
    popAndRespond want s = .next (s.respond (.status .bufferEmpty)) := by
  simp [popAndRespond, withValidFifo, fifoPop, hv, hempty]

theorem popAndRespond_element (hv : s.fifo.valid = true) (hr : s.fifo.rd ≤ s.fifo.cap)
    (hne : s.fifo.rd ≠ s.fifo.wr) :
    popAndRespond true s = .next ((s.setFifo { s.fifo with rd := fifoNext s.fifo s.fifo.rd }).respond
      (.element (fifoSlot s.fifo s.fifo.rd))) := by
  simp [popAndRespond, withValidFifo, fifoPop, hv, hr, hne]

theorem exec_phyRead (ha : s.instanceActive = true) : exec .phyRead s = popAndRespond true s :=
  withPhyInitialised_pass ha _

/-- A slot of a buffer of one-byte elements is one byte of its storage. -/
theorem fifoSlot_oneByte {f : Fifo} (hesz : f.esz = 1) (i : Nat) : fifoSlot f i = [cellRead f.store i] := by
  simp [fifoSlot, cellReadAll, hesz]

theorem pollRead_empty (ha : s.instanceActive = true) (hv : s.fifo.valid = true)
    (hempty : s.fifo.rd = s.fifo.wr) :
    pollRead n fs s = .next ((s.respond (.status .bufferEmpty)).setFg fs) := by
  rw [pollRead, exec_phyRead ha, popAndRespond_empty hv hempty]
  rfl

/-- `PKT.POLL` keeps the byte it has read until it hands it on (R106). -/
theorem pollRead_byte (ha : s.instanceActive = true) (hv : s.fifo.valid = true) (hesz : s.fifo.esz = 1)
    (hr : s.fifo.rd ≤ s.fifo.cap) (hne : s.fifo.rd ≠ s.fifo.wr) :
    pollRead n fs s =
      .next (((s.setFifo { s.fifo with rd := fifoNext s.fifo s.fifo.rd }).respond
        (.element [cellRead s.fifo.store s.fifo.rd])).setFg
          (.poll n (some (cellRead s.fifo.store s.fifo.rd)) :: fs)) := by
  rw [pollRead, exec_phyRead ha, popAndRespond_element hv hr hne, fifoSlot_oneByte hesz]
  rfl

/-- A read-back tick of a `PHY.TXRUN` sees the level just driven (R106). -/
theorem txrunLevel_readBack (hb : s.phy.busState = .tx) (hc : s.phy.collate = true) :
    txrunLevel s = s.phy.lastTxBit := if_pos ⟨hb, hc⟩

/-- Settles O46, turn by turn. -/
theorem pseudoOperationsAndWireFormatsExpand : Obligations.PseudoOperationsAndWireFormatsExpand := by
  refine ⟨fun s w b p n a d o l => ⟨rfl, rfl, rfl⟩, fun s p ops rest ins he hsched hin hp => ?_,
    fun s n rest ins he hsched hin => step_irq_pseudo he hsched hin,
    fun s rest ins he hsched hin => ?_, fun s n rest ins he hsched hfg => ⟨fun bytes hin => ?_, fun hin => ?_⟩,
    fun s n fs rest he hsched => ⟨fun b bs failed hf => ?_, fun failed hf => ?_, fun hf ha hv hempty => ?_,
      fun hf ha hv hesz hr hne => ?_, fun b hf => ?_⟩⟩
  · rw [step_irq_pseudo he hsched hin]
    obtain ⟨_, rfl, rfl⟩ | ⟨_, rfl, rfl⟩ | ⟨_, rfl, rfl⟩ | ⟨_, rfl, rfl⟩ := hp <;> rfl
  · exact ⟨txrunLevel s, txrunLevel_readBack, step_irq_txrunTick he hsched hin⟩
  · exact step_fg_pseudo he hsched hfg hin
  · exact step_fg_pseudo he hsched hfg hin
  · exact step_rxbuf_byte he hsched hf
  · exact step_rxbuf_end he hsched hf
  · rw [step_poll_read he hsched hf]
    exact pollRead_empty (s := s.setSched rest) ha hv hempty
  · rw [step_poll_read he hsched hf]
    exact pollRead_byte (s := s.setSched rest) ha hv hesz hr hne
  · exact step_poll_byte he hsched hf

end Sys2Proof.Machine
end

section
/-! # The FIFO's operations (spec/40_fifo.md R131 to R140)

Each operation of a valid FIFO is first said as an equation per case. The queue that R140 speaks of is the list of
the contents, and the two facts about it are that a push appends to it and that a pop takes its head; both rest on
the length being the one number in range that leads from `F.rd` to `F.wr` (10_state R23). -/

namespace Sys2Proof.Machine

variable {s t u : State} {f : Fifo} {arg : Byte} {wide elem : List Byte}

theorem withValidFifo_pass (hv : s.fifo.valid = true) (o : Out) : withValidFifo s o = o := if_pos hv

/-! ## Construction (R131) -/

theorem fifoConstruct_badParam {c e : Nat}
    (h : c = Config.sizeMax ∨ e = 0 ∨ (c + 1) * e > Config.sizeMax) :
    fifoConstruct c e f = (.badParam, f) := by
  cases hr : fifoConstruct c e f
  obtain ⟨rfl, rfl, -⟩ | ⟨-, -, hc, he, hsize⟩ := fifoConstruct_cases hr
  · rfl
  · omega

theorem fifoConstruct_ok {c e : Nat}
    (h : ¬ (c = Config.sizeMax ∨ e = 0 ∨ (c + 1) * e > Config.sizeMax)) :
    fifoConstruct c e f = (.ok, ⟨c, e, [], 0, 0, true⟩) := by
  cases hr : fifoConstruct c e f
  obtain ⟨-, -, hbad⟩ | ⟨rfl, rfl, -⟩ := fifoConstruct_cases hr
  · exact absurd hbad h
  · rfl

theorem exec_fifoInit (hv : s.fifo.valid = false) (c e : Size) :
    exec (.fifoInit c e) s =
      .next ((s.setFifo (fifoConstruct c.toNat e.toNat s.fifo).2).respond
        (.status (fifoConstruct c.toNat e.toNat s.fifo).1)) := by
  simp [exec, execFifoInit, hv]

/-- Settles O1: the guard, and the two outcomes of a construction. -/
theorem fifoInitConstructsOrFails : Obligations.FifoInitConstructsOrFails := by
  refine fun s c e => ⟨fun hv => if_pos hv, fun hv hbad => ?_, fun hv hgood => ?_⟩
  · rw [exec_fifoInit hv, fifoConstruct_badParam hbad]
    rfl
  · rw [exec_fifoInit hv, fifoConstruct_ok hgood]
    exact ⟨_, rfl, rfl, rfl, rfl, rfl, rfl, rfl⟩

/-! ## The element operand of a push (R132, 30_encoding R103) -/

/-- The operand is one element in the two forms of R103, and in no other. -/
theorem elementOperand_eq_some_iff {esz : Nat} :
    elementOperand esz arg wide = some elem ↔
      esz = 1 ∧ wide = [] ∧ elem = [arg] ∨ esz ≠ 1 ∧ arg = 0 ∧ wide.length = esz ∧ elem = wide := by
  unfold elementOperand
  by_cases hesz : esz = 1
  · by_cases hwide : wide = [] <;> simp [hesz, hwide, eq_comm (b := elem)]
  · by_cases hform : arg = 0 ∧ wide.length = esz
    · simp [hesz, hform, eq_comm (b := elem)]
    · simp only [hesz, hform, if_false, reduceCtorEq, false_and, false_or, false_iff]
      exact fun ⟨_, harg, hlen, _⟩ => hform ⟨harg, hlen⟩

theorem elementOperand_eq_none {esz : Nat}
    (h : esz = 1 ∧ wide ≠ [] ∨ esz ≠ 1 ∧ arg = 0 ∧ wide.length ≠ esz) :
    elementOperand esz arg wide = none := by
  obtain ⟨hesz, hwide⟩ | ⟨hesz, -, hlen⟩ := h
  · simp [elementOperand, hesz, hwide]
  · simp [elementOperand, hesz, hlen]

theorem length_of_elementOperand {esz : Nat} (h : elementOperand esz arg wide = some elem) :
    elem.length = esz := by
  obtain ⟨hesz, -, rfl⟩ | ⟨-, -, hlen, rfl⟩ := elementOperand_eq_some_iff.1 h
  · simp [hesz]
  · exact hlen

theorem pushArgInvalid_eq_false {esz : Nat} (h : esz ≠ 1 → arg = 0) : pushArgInvalid esz arg = false := by
  by_cases hesz : esz = 1
  · simp [pushArgInvalid, hesz]
  · simp [pushArgInvalid, h hesz]

theorem pushArgInvalid_of_elementOperand {esz : Nat} (h : elementOperand esz arg wide = some elem) :
    pushArgInvalid esz arg = false := by
  refine pushArgInvalid_eq_false fun hne => ?_
  obtain ⟨hesz, -⟩ | ⟨-, harg, -⟩ := elementOperand_eq_some_iff.1 h
  · exact absurd hesz hne
  · exact harg

/-! ## The FIFO after a push (R132, 20_memory R61) -/

/-- The FIFO with an element stored in slot `F.wr` and `F.wr` moved on. -/
def Fifo.pushed (f : Fifo) (elem : List Byte) : Fifo :=
  { f with store := cellWriteAll (f.wr * f.esz) elem f.store, wr := fifoNext f f.wr }

theorem fifoPush_full (h : fifoNext f f.wr = f.rd) (elem : List Byte) :
    fifoPush elem f = .ok (.bufferFull, f) := if_pos h

theorem fifoPush_room (h : fifoNext f f.wr ≠ f.rd) (hw : f.wr ≤ f.cap) (elem : List Byte) :
    fifoPush elem f = .ok (.ok, f.pushed elem) :=
  (if_neg h).trans (if_pos hw)

/-- Of the storage only slot `F.wr` is written. -/
theorem cellRead_pushed_outside (hf : cellsWf f.store = true) (hlen : elem.length = f.esz) {a : Nat}
    (ha : a < f.wr * f.esz ∨ f.wr * f.esz + f.esz ≤ a) :
    cellRead (f.pushed elem).store a = cellRead f.store a :=
  cellRead_cellWriteAll_outside hf (by rwa [hlen])

/-- The element stands in slot `F.wr`. -/
theorem fifoSlot_pushed_same (hf : cellsWf f.store = true) (hlen : elem.length = f.esz) :
    fifoSlot (f.pushed elem) f.wr = elem := by
  have h := cellReadAll_cellWriteAll (i := f.wr * f.esz) (vs := elem) hf
  rwa [hlen] at h

theorem getElem?_fifoSlot {i j : Nat} (hj : j < f.esz) :
    (fifoSlot f i)[j]? = some (cellRead f.store (i * f.esz + j)) := by
  simp [fifoSlot, cellReadAll, hj]

/-- The bytes of two slots are apart. -/
theorem slots_disjoint {i k n j : Nat} (hne : i ≠ k) (hj : j < n) :
    i * n + j < k * n ∨ k * n + n ≤ i * n + j := by
  obtain h | h := Nat.lt_or_gt_of_ne hne
  · have hmul : (i + 1) * n ≤ k * n := Nat.mul_le_mul_right n h
    rw [Nat.succ_mul] at hmul
    omega
  · have hmul : (k + 1) * n ≤ i * n := Nat.mul_le_mul_right n h
    rw [Nat.succ_mul] at hmul
    omega

theorem fifoSlot_pushed_other (hf : cellsWf f.store = true) (hlen : elem.length = f.esz) {i : Nat}
    (hi : i ≠ f.wr) : fifoSlot (f.pushed elem) i = fifoSlot f i := by
  refine List.map_congr_left fun j hj => ?_
  exact cellRead_pushed_outside hf hlen (slots_disjoint hi (List.mem_range.1 hj))

/-! ## FIFO.PUSH (R132) -/

theorem exec_fifoPush (hv : s.fifo.valid = true) (ha : pushArgInvalid s.fifo.esz arg = false) {st : Status}
    (hp : pushElement (elementOperand s.fifo.esz arg wide) s = .ok (st, u)) :
    exec (.fifoPush arg wide) s = .next (u.respond (.status st)) := by
  simp [exec, execFifoPush, withValidFifo_pass hv, ha, hp]

theorem pushElement_element {st : Status} {g : Fifo} (hp : fifoPush elem s.fifo = .ok (st, g)) :
    pushElement (some elem) s = .ok (st, s.setFifo g) := by
  simp [pushElement, hp]

theorem pushElement_free {st : Status} {g : Fifo}
    (hp : fifoPush (freeElement s.freeCtr s.fifo.esz) s.fifo = .ok (st, g)) :
    pushElement none s = .ok (st, (s.setFifo g).drawFree) := by
  simp [pushElement, hp]

theorem exec_fifoPush_full (hv : s.fifo.valid = true) (hop : elementOperand s.fifo.esz arg wide = some elem)
    (hfull : fifoNext s.fifo s.fifo.wr = s.fifo.rd) :
    exec (.fifoPush arg wide) s = .next { s with resp := .status .bufferFull } :=
  exec_fifoPush hv (pushArgInvalid_of_elementOperand hop)
    (by rw [hop]; exact pushElement_element (fifoPush_full hfull elem))

theorem exec_fifoPush_room (hv : s.fifo.valid = true) (hop : elementOperand s.fifo.esz arg wide = some elem)
    (hroom : fifoNext s.fifo s.fifo.wr ≠ s.fifo.rd) (hw : s.fifo.wr ≤ s.fifo.cap) :
    exec (.fifoPush arg wide) s = .next { s with fifo := s.fifo.pushed elem, resp := .status .ok } :=
  exec_fifoPush hv (pushArgInvalid_of_elementOperand hop)
    (by rw [hop]; exact pushElement_element (fifoPush_room hroom hw elem))

/-- What is no element is pushed as a free one (log entry 8). -/
theorem exec_fifoPush_free_full (hv : s.fifo.valid = true) (ha : pushArgInvalid s.fifo.esz arg = false)
    (hop : elementOperand s.fifo.esz arg wide = none) (hfull : fifoNext s.fifo s.fifo.wr = s.fifo.rd) :
    exec (.fifoPush arg wide) s =
      .next { s with resp := .status .bufferFull, freeCtr := s.freeCtr + 1 } :=
  exec_fifoPush hv ha (by rw [hop]; exact pushElement_free (fifoPush_full hfull _))

@[inherit_doc exec_fifoPush_free_full]
theorem exec_fifoPush_free_room (hv : s.fifo.valid = true) (ha : pushArgInvalid s.fifo.esz arg = false)
    (hop : elementOperand s.fifo.esz arg wide = none) (hroom : fifoNext s.fifo s.fifo.wr ≠ s.fifo.rd)
    (hw : s.fifo.wr ≤ s.fifo.cap) :
    exec (.fifoPush arg wide) s =
      .next { s with
        fifo := s.fifo.pushed (freeElement s.freeCtr s.fifo.esz)
        resp := .status .ok
        freeCtr := s.freeCtr + 1 } :=
  exec_fifoPush hv ha (by rw [hop]; exact pushElement_free (fifoPush_room hroom hw _))

/-- Settles O2: in each form of the operand the FIFO is full or has room. -/
theorem fifoPushStoresInSlot : Obligations.FifoPushStoresInSlot := by
  intro s arg wide hv hw hf
  refine ⟨fun elem hform => ?_, fun hesz harg => execFifoPush_unusedArg hv hesz harg, fun hform => ?_⟩
  · have hop := elementOperand_eq_some_iff.2 hform
    have hlen := length_of_elementOperand hop
    refine ⟨exec_fifoPush_full hv hop, fun hroom => ⟨_, exec_fifoPush_room hv hop hroom hw, rfl, ?_, ?_⟩⟩
    · intro j hj
      have hstored := getElem?_fifoSlot (f := s.fifo.pushed elem) (i := s.fifo.wr) hj
      rwa [fifoSlot_pushed_same hf hlen] at hstored
    · exact fun a ha => cellRead_pushed_outside hf hlen ha
  · have hop := elementOperand_eq_none hform
    have ha : pushArgInvalid s.fifo.esz arg = false :=
      pushArgInvalid_eq_false fun hne => hform.elim (absurd ·.1 hne) (·.2.1)
    have hlen : (freeElement s.freeCtr s.fifo.esz).length = s.fifo.esz := by simp [freeElement]
    exact ⟨exec_fifoPush_free_full hv ha hop, fun hroom =>
      ⟨_, exec_fifoPush_free_room hv ha hop hroom hw, rfl, fun _ ha => cellRead_pushed_outside hf hlen ha⟩⟩

/-! ## FIFO.POP and FIFO.PEEK (R133, R134) -/

/-- The FIFO without its oldest element. -/
def Fifo.popped (f : Fifo) : Fifo := { f with rd := fifoNext f f.rd }

theorem fifoPop_empty (h : f.rd = f.wr) : fifoPop f = .ok none := if_pos h

theorem fifoPop_element (h : f.rd ≠ f.wr) (hr : f.rd ≤ f.cap) :
    fifoPop f = .ok (some (fifoSlot f f.rd, f.popped)) :=
  (if_neg h).trans (if_pos hr)

theorem exec_fifoPop_empty (hv : s.fifo.valid = true) (h : s.fifo.rd = s.fifo.wr) (want : Bool) :
    exec (.fifoPop want) s = .next { s with resp := .status .bufferEmpty } :=
  popAndRespond_empty hv h

theorem exec_fifoPop_element (hv : s.fifo.valid = true) (hr : s.fifo.rd ≤ s.fifo.cap)
    (h : s.fifo.rd ≠ s.fifo.wr) (want : Bool) :
    exec (.fifoPop want) s = .next { s with
      fifo := s.fifo.popped
      resp := if want then .element (fifoSlot s.fifo s.fifo.rd) else .status .ok } := by
  refine (withValidFifo_pass hv _).trans ?_
  rw [fifoPop_element h hr]
  rfl

/-- Settles O3: the FIFO is empty, or its oldest element is taken. -/
theorem fifoPopTakesOldest : Obligations.FifoPopTakesOldest :=
  fun _ want hv hr => ⟨fun h => exec_fifoPop_empty hv h want, fun h => exec_fifoPop_element hv hr h want⟩

/-- Settles O4: a peek answers as a pop does and keeps the FIFO. -/
theorem fifoPeekLeavesState : Obligations.FifoPeekLeavesState := by
  intro s hv hr
  refine ⟨fun h => (withValidFifo_pass hv _).trans ?_, fun h => (withValidFifo_pass hv _).trans ?_⟩
  · rw [fifoPop_empty h]
    rfl
  · rw [fifoPop_element h hr]
    rfl

/-! ## FIFO.READN, FIFO.CAP and FIFO.LEN (R135, R137, R138) -/

/-- Settles O5: the number that leads from `F.rd` to `F.wr` is the length. -/
theorem fifoReadnReturnsOldest : Obligations.FifoReadnReturnsOldest := by
  intro s m len hv hr hl hlen
  obtain rfl := fifoLength_unique hr hl hlen
  exact withValidFifo_pass hv _

/-- Settles O8: the number that leads from `F.rd` to `F.wr` is the length. -/
theorem fifoCapAndLenAnswer : Obligations.FifoCapAndLenAnswer := by
  intro s len hv hr hl hlen
  obtain rfl := fifoLength_unique hr hl hlen
  exact ⟨withValidFifo_pass hv _, withValidFifo_pass hv _⟩

/-! ## FIFO.CLEAR and FIFO.FREE (R136, R139) -/

/-- The FIFO with no elements left. -/
def Fifo.cleared (f : Fifo) : Fifo := { f with rd := f.wr }

/-- Clearing an empty FIFO changes nothing. -/
theorem cleared_of_empty (h : f.rd = f.wr) : f.cleared = f := by
  cases f
  cases h
  rfl

theorem exec_fifoClear (hv : s.fifo.valid = true) :
    exec .fifoClear s = .next { s with
      fifo := s.fifo.cleared
      resp := .status (if s.fifo.rd = s.fifo.wr then s.params.clearEmpty.status else .ok) } :=
  withValidFifo_pass hv _

/-- Settles O7: on an empty FIFO the read index is the write index already. -/
theorem fifoClearEmpties : Obligations.FifoClearEmpties := by
  intro s hv
  rw [exec_fifoClear hv]
  constructor <;> intro h
  · rw [if_neg h]
    rfl
  · rw [if_pos h, cleared_of_empty h]

/-- Settles O9: what is released is not valid, whatever its other fields. -/
theorem fifoFreeInvalidates : Obligations.FifoFreeInvalidates :=
  fun _ hv => ⟨_, withValidFifo_pass hv _, rfl, rfl⟩

/-! ## The length and the contents under push, pop and clear (R140) -/

theorem fifoLength_eq_zero_iff (hr : f.rd ≤ f.cap) (hw : f.wr ≤ f.cap) :
    fifoLength f = 0 ↔ f.rd = f.wr := by
  have hstart : (f.rd + 0) % (f.cap + 1) = f.rd := Nat.mod_eq_of_lt (Nat.lt_succ_of_le hr)
  refine ⟨fun h => ?_, fun h => fifoLength_unique hr (Nat.zero_le _) (hstart.trans h)⟩
  rw [← hstart, ← h]
  exact rd_add_fifoLength hr hw

/-- The slot after the newest element. -/
theorem rd_add_fifoLength_succ (hr : f.rd ≤ f.cap) (hw : f.wr ≤ f.cap) :
    (f.rd + (fifoLength f + 1)) % (f.cap + 1) = fifoNext f f.wr := by
  rw [fifoNext, ← rd_add_fifoLength hr hw, Nat.mod_add_mod, Nat.add_assoc]

theorem fifoLength_pushed (hr : f.rd ≤ f.cap) (hw : f.wr ≤ f.cap) (hlt : fifoLength f < f.cap)
    (elem : List Byte) : fifoLength (f.pushed elem) = fifoLength f + 1 :=
  fifoLength_unique (f := f.pushed elem) hr hlt (rd_add_fifoLength_succ hr hw)

/-- The test of R132 for a full buffer says that it holds `F.cap` elements. -/
theorem fifoNext_wr_eq_rd_iff (hr : f.rd ≤ f.cap) (hw : f.wr ≤ f.cap) :
    fifoNext f f.wr = f.rd ↔ fifoLength f = f.cap := by
  constructor <;> intro h
  · refine (fifoLength_le f).eq_of_not_lt fun hlt => ?_
    have hzero : fifoLength (f.pushed []) = 0 :=
      (fifoLength_eq_zero_iff (f := f.pushed []) hr (fifoNext_le f f.wr)).2 h.symm
    have hsucc := fifoLength_pushed hr hw hlt []
    omega
  · rw [← rd_add_fifoLength_succ hr hw, h, Nat.add_mod_right, Nat.mod_eq_of_lt (Nat.lt_succ_of_le hr)]

/-- No element is in slot `F.wr`. -/
theorem occupied_slot_ne_wr (hr : f.rd ≤ f.cap) {j : Nat} (hj : j < fifoLength f) :
    (f.rd + j) % (f.cap + 1) ≠ f.wr := by
  intro h
  have hcap := fifoLength_le f
  have hlen := fifoLength_unique hr (by omega) h
  omega

/-- A push appends its element to the contents. -/
theorem fifoContents_pushed (hr : f.rd ≤ f.cap) (hw : f.wr ≤ f.cap) (hlt : fifoLength f < f.cap)
    (hf : cellsWf f.store = true) (hlen : elem.length = f.esz) :
    fifoContents (f.pushed elem) = fifoContents f ++ [elem] := by
  have hold : fifoOldest (f.pushed elem) (fifoLength f) = fifoContents f := by
    refine List.map_congr_left fun j hj => ?_
    exact fifoSlot_pushed_other hf hlen (occupied_slot_ne_wr hr (List.mem_range.1 hj))
  have hnew : fifoSlot (f.pushed elem) ((f.rd + fifoLength f) % (f.cap + 1)) = elem := by
    rw [rd_add_fifoLength hr hw, fifoSlot_pushed_same hf hlen]
  rw [fifoContents, fifoLength_pushed hr hw hlt, fifoOldest_add, hold]
  exact congrArg (fun v => fifoContents f ++ [v]) hnew

/-- Slots counted from the second element on. -/
theorem fifoNext_rd_add (f : Fifo) (j : Nat) :
    (fifoNext f f.rd + j) % (f.cap + 1) = (f.rd + (1 + j)) % (f.cap + 1) := by
  rw [fifoNext, Nat.mod_add_mod, Nat.add_assoc]

theorem fifoLength_eq_one_add_popped (hr : f.rd ≤ f.cap) (hw : f.wr ≤ f.cap) (hne : f.rd ≠ f.wr) :
    fifoLength f = 1 + fifoLength f.popped := by
  have hpos : fifoLength f ≠ 0 := mt (fifoLength_eq_zero_iff hr hw).1 hne
  obtain ⟨n, hn⟩ : ∃ n, fifoLength f = 1 + n := ⟨fifoLength f - 1, by omega⟩
  have hcap := fifoLength_le f
  have hpopped : fifoLength f.popped = n := by
    refine fifoLength_unique (f := f.popped) (fifoNext_le f f.rd) (show n ≤ f.cap by omega) ?_
    exact (fifoNext_rd_add f n).trans (hn ▸ rd_add_fifoLength hr hw)
  rw [hn, hpopped]

/-- The contents of a FIFO that is not empty are its oldest element and what a pop leaves. -/
theorem fifoContents_eq_cons (hr : f.rd ≤ f.cap) (hw : f.wr ≤ f.cap) (hne : f.rd ≠ f.wr) :
    fifoContents f = fifoSlot f f.rd :: fifoContents f.popped := by
  have hfirst : fifoOldest f 1 = [fifoSlot f f.rd] := by
    simp [fifoOldest, Nat.mod_eq_of_lt (Nat.lt_succ_of_le hr)]
  have hrest : ((List.range (fifoLength f.popped)).map fun j => fifoSlot f ((f.rd + (1 + j)) % (f.cap + 1))) =
      fifoContents f.popped :=
    List.map_congr_left fun j _ => congrArg (fifoSlot f) (fifoNext_rd_add f j).symm
  rw [fifoContents, fifoLength_eq_one_add_popped hr hw hne, fifoOldest_add, hfirst, hrest]
  rfl

theorem fifoContents_eq_nil_iff (hr : f.rd ≤ f.cap) (hw : f.wr ≤ f.cap) :
    fifoContents f = [] ↔ f.rd = f.wr := by
  rw [← List.length_eq_zero_iff, fifoContents_length, fifoLength_eq_zero_iff hr hw]

/-! ## The operations of a bounded queue (R140) -/

/-- An operation that leaves the FIFO itself as it was leaves a queue. -/
theorem stillQueue_of_same (hf : FifoOk s.fifo) (hv : s.fifo.valid = true) (h : t.fifo = s.fifo) :
    StillQueue s t := by
  constructor <;> rw [h]
  exacts [hv, hf.inRange, hf.storage]

theorem push_queue (hf : FifoOk s.fifo) (hv : s.fifo.valid = true)
    (hop : elementOperand s.fifo.esz arg wide = some elem) :
    ∃ t, exec (.fifoPush arg wide) s = .next t ∧ StillQueue s t ∧
      ((fifoContents s.fifo).length = s.fifo.cap → t = { s with resp := .status .bufferFull }) ∧
      ((fifoContents s.fifo).length < s.fifo.cap →
        t.resp = .status .ok ∧ fifoContents t.fifo = fifoContents s.fifo ++ [elem]) := by
  obtain ⟨-, -, hr, hw⟩ := hf.inRange hv
  have hfull := fifoNext_wr_eq_rd_iff hr hw
  rw [fifoContents_length]
  obtain hlen | hlen := (fifoLength_le s.fifo).eq_or_lt
  · exact ⟨_, exec_fifoPush_full hv hop (hfull.2 hlen), stillQueue_of_same hf hv rfl,
      fun _ => rfl, fun hlt => absurd hlen hlt.ne⟩
  · have hroom : fifoNext s.fifo s.fifo.wr ≠ s.fifo.rd := mt hfull.1 hlen.ne
    have hpushed : FifoOk (s.fifo.pushed elem) := fifoPush_fifoOk hf (fifoPush_room hroom hw elem)
    exact ⟨_, exec_fifoPush_room hv hop hroom hw, ⟨hv, hpushed.inRange, hpushed.storage, rfl, rfl⟩,
      fun heq => absurd heq hlen.ne,
      fun _ => ⟨rfl, fifoContents_pushed hr hw hlen hf.storage (length_of_elementOperand hop)⟩⟩

theorem pop_queue (hf : FifoOk s.fifo) (hv : s.fifo.valid = true) (want : Bool) :
    ∃ t, exec (.fifoPop want) s = .next t ∧ StillQueue s t ∧
      (fifoContents s.fifo = [] → t = { s with resp := .status .bufferEmpty }) ∧
      (∀ v vs, fifoContents s.fifo = v :: vs →
        fifoContents t.fifo = vs ∧ t.resp = if want then .element v else .status .ok) := by
  obtain ⟨-, -, hr, hw⟩ := hf.inRange hv
  have hnil := fifoContents_eq_nil_iff hr hw
  by_cases h : s.fifo.rd = s.fifo.wr
  · refine ⟨_, exec_fifoPop_empty hv h want, stillQueue_of_same hf hv rfl, fun _ => rfl, ?_⟩
    intro v vs hcons
    rw [hnil.2 h] at hcons
    cases hcons
  · have hpopped : FifoOk s.fifo.popped := fifoOk_advance hf
    refine ⟨_, exec_fifoPop_element hv hr h want, ⟨hv, hpopped.inRange, hpopped.storage, rfl, rfl⟩,
      fun hempty => absurd (hnil.1 hempty) h, ?_⟩
    intro v vs hcons
    rw [fifoContents_eq_cons hr hw h] at hcons
    obtain ⟨rfl, rfl⟩ := List.cons.inj hcons
    exact ⟨rfl, rfl⟩

theorem clear_queue (hf : FifoOk s.fifo) (hv : s.fifo.valid = true) :
    ∃ t, exec .fifoClear s = .next t ∧ StillQueue s t ∧ fifoContents t.fifo = [] := by
  obtain ⟨-, -, -, hw⟩ := hf.inRange hv
  have hcleared : FifoOk s.fifo.cleared := fifoOk_clear hf
  exact ⟨_, exec_fifoClear hv, ⟨hv, hcleared.inRange, hcleared.storage, rfl, rfl⟩,
    (fifoContents_eq_nil_iff (f := s.fifo.cleared) hw hw).2 rfl⟩

/-- Settles O10, operation by operation. -/
theorem fifoRefinesBoundedQueue : Obligations.FifoRefinesBoundedQueue := by
  intro s hinv hv hstore
  have hf : FifoOk s.fifo := ⟨hinv, hstore⟩
  refine ⟨?_, fun arg wide elem hform => ?_, pop_queue hf hv, clear_queue hf hv⟩
  · rw [fifoContents_length]
    exact fifoLength_le s.fifo
  · exact push_queue hf hv (elementOperand_eq_some_iff.2 hform)

end Sys2Proof.Machine
end

section
/-! # The receive decoder (spec/41_rx_decoder.md R151 to R159)

Each event is first said as an equation per case. A frame is then one induction over its samples: `FrameSoFar f p d`
says what the decoder holds when it is due to take sample `p` of the frame `f`, the data samples and the failed checks
among the first `p`. The counters need no part of it, as 10_state R25 gives them from the number of samples. -/

namespace Sys2Proof.Machine

variable {s : State} {d : Decoder} {b : Bool} {f : Nat → Bool} {p : Nat}

/-! ## The events, case by case (R151 to R155) -/

theorem decStart_rejects (ho : d.ongoing = true) : decStart d = (.reject, d) := if_pos ho

theorem decStart_begins (ho : d.ongoing = false) :
    decStart d = (.accept, { Decoder.zero with ongoing := true }) := if_neg (by simp [ho])

theorem decEdge_rejects (h : d.ongoing = false ∨ d.expectingEdge = false) : decEdge d = (.reject, d) :=
  if_pos (by simpa using h)

theorem decEdge_releases (ho : d.ongoing = true) (he : d.expectingEdge = true) :
    decEdge d = (.accept, { d with expectingEdge := false }) := if_neg (by simp [ho, he])

theorem decSample_rejects (h : d.ongoing = false ∨ d.expectingEdge = true) :
    decSample b d = (.reject, d) := if_pos (by simpa using h)

theorem decSample_reports (ho : d.ongoing = true) (he : d.expectingEdge = false) (hc : d.totalCnt = 21) :
    decSample b d =
      (⟨true, true, (decAbsorb b d).data, (decAbsorb b d).errorFlags⟩, Decoder.zero) := by
  simp [decSample, ho, he, hc]

theorem decSample_takes (ho : d.ongoing = true) (he : d.expectingEdge = false) (hc : d.totalCnt.toNat < 21) :
    decSample b d = (.accept, decAdvance (decAbsorb b d)) := by
  have hne : ¬ d.totalCnt = 21 := fun h => absurd hc (by simp [h])
  rw [decSample, if_neg (by simp [ho, he]), if_neg hne]

theorem exec_decStart (s : State) : exec .decStart s = answerEvent (decStart s.dec) s := rfl

theorem exec_decEdge (s : State) : exec .decEdge s = answerEvent (decEdge s.dec) s := rfl

theorem exec_decSample (b : Bool) (s : State) :
    exec (.decSample b) s = answerEvent (decSample b s.dec) s := rfl

/-! ## A sample by its position (R153) -/

/-- Position 0 is the start bit. -/
theorem decLogical_start :
    decLogical b 0 d = { d with dataCnt := 0, errorFlags := raiseFlag b flagStart d.errorFlags } := rfl

/-- Positions 1 to 8 are the data bits. -/
theorem decLogical_data {k : Nat} (h1 : 1 ≤ k) (h8 : k ≤ 8) :
    decLogical b k d =
      { d with data := d.data ||| (bitOf 8 b <<< d.dataCnt.toNat), dataCnt := d.dataCnt + 1 } := by
  rw [decLogical, if_neg (by omega), if_pos h8]

/-- Position 9 is the parity bit. -/
theorem decLogical_parity :
    decLogical b 9 d =
      { d with errorFlags := raiseFlag (b != parity d.data) flagParity d.errorFlags } := rfl

/-- Position 10 is the stop bit. -/
theorem decLogical_stop :
    decLogical b 10 d = { d with errorFlags := raiseFlag (!b) flagStop d.errorFlags } := rfl

/-- A data bit is put at one place of the byte and changes no other. -/
theorem getLsbD_or_bitOf_shiftLeft (a : Byte) (b : Bool) (n : Nat) {i : Nat} (hi : i < 8) :
    (a ||| (bitOf 8 b <<< n)).getLsbD i = (a.getLsbD i || (b && decide (i = n))) := by
  have hplace : (!decide (i < n) && decide (i - n = 0)) = decide (i = n) := by
    rw [Bool.eq_iff_iff]
    simp
    omega
  rw [BitVec.getLsbD_or, BitVec.getLsbD_shiftLeft, ← hplace]
  cases b <;> simp [bitOf, hi]

theorem raiseFlag_not (b : Bool) (mask flags : Byte) :
    raiseFlag (!b) mask flags = if b then flags else flags ||| mask := by
  cases b <;> rfl

theorem raiseFlag_bne (b c : Bool) (mask flags : Byte) :
    raiseFlag (b != c) mask flags = if b = c then flags else flags ||| mask := by
  cases b <;> cases c <;> rfl

theorem toNat_totalCnt_succ (hc : d.totalCnt.toNat < 21) :
    (decAdvance (decAbsorb b d)).totalCnt.toNat = d.totalCnt.toNat + 1 := by
  simp only [decAdvance, decAbsorb_totalCnt]
  bv_omega

/-! ## The events as operations -/

/-- Settles O11, by whether a frame is in progress. -/
theorem decStartBeginsOrRejects : Obligations.DecStartBeginsOrRejects := by
  refine fun s => ⟨fun ho => ?_, fun ho => ?_⟩
  · rw [exec_decStart, decStart_rejects ho]; rfl
  · rw [exec_decStart, decStart_begins ho]; rfl

/-- Settles O12, by whether an edge is expected. -/
theorem decEdgeReleasesOrRejects : Obligations.DecEdgeReleasesOrRejects := by
  refine fun s => ⟨fun h => ?_, fun ho he => ?_⟩
  · rw [exec_decEdge, decEdge_rejects h]; rfl
  · rw [exec_decEdge, decEdge_releases ho he]; rfl

/-- Settles O13, position by position. -/
theorem decSampleByPosition : Obligations.DecSampleByPosition := by
  refine fun s b => ⟨fun h => ?_, fun ho he hc => ?_⟩
  · rw [exec_decSample, decSample_rejects h]; rfl
  · have hnext : (decAdvance (decAbsorb b s.dec)).totalCnt.toNat = s.dec.totalCnt.toNat + 1 :=
      toNat_totalCnt_succ hc
    rw [exec_decSample, decSample_takes ho he hc]
    refine ⟨_, rfl, rfl, ?_, rfl, hnext, ?_, fun hoff => ?_, fun hoff hk => ?_, fun hoff h1 h8 => ?_,
      fun hoff hk => ?_, fun hoff hk => ?_⟩
    · exact decAbsorb_ongoing.trans ho
    · rw [← hnext, ← Nat.testBit_zero]
      simp only [respond_dec, setDec_dec, decAdvance, decAbsorb_totalCnt, BitVec.getLsbD]
    · rw [decAbsorb_stuffing hoff]
      exact ⟨rfl, rfl, raiseFlag_not ..⟩
    · rw [decAbsorb_logical hoff, hk, decLogical_start]
      exact ⟨rfl, rfl, rfl⟩
    · rw [decAbsorb_logical hoff, decLogical_data h1 h8]
      exact ⟨fun i hi => getLsbD_or_bitOf_shiftLeft _ _ _ hi, BitVec.toNat_add .., rfl⟩
    · rw [decAbsorb_logical hoff, hk, decLogical_parity]
      exact ⟨rfl, rfl, raiseFlag_bne ..⟩
    · rw [decAbsorb_logical hoff, hk, decLogical_stop]
      exact ⟨rfl, rfl, raiseFlag_not ..⟩

/-- Settles O14: the last sample is a stuffing sample, so the data and all flags but one are those before it. -/
theorem decLastSampleReportsFrame : Obligations.DecLastSampleReportsFrame := by
  intro s b ho he hc hoff
  rw [exec_decSample, decSample_reports ho he hc, decAbsorb_stuffing hoff, ← raiseFlag_not]
  rfl

/-- `DEC.WANT` is 1 exactly when a sample is accepted, and any sample is answered (R155). -/
theorem decSample_accepted (b : Bool) (d : Decoder) : (decSample b d).1.accepted = decWant d := by
  rcases h : decSample b d with ⟨r, d'⟩
  obtain ⟨hout, rfl, -⟩ | ⟨ho, he, -, -, rfl⟩ | ⟨ho, he, -, rfl, -⟩ := decSample_cases h
  · obtain ho | he := hout
    · simp [decWant, ho, DecResult.reject]
    · simp [decWant, he, DecResult.reject]
  · simp [decWant, ho, he]
  · simp [decWant, ho, he, DecResult.accept]

/-- Settles O15. -/
theorem decWantTellsAcceptance : Obligations.DecWantTellsAcceptance :=
  fun s b => ⟨rfl, _, _, exec_decSample b s, rfl, decSample_accepted b s.dec⟩

/-- Settles O16: `DEC.RESET` writes the decoder's reset value. -/
theorem decResetZeroes : Obligations.DecResetZeroes := fun _ => rfl

/-! ## The byte and the flags of a frame (30_encoding R91, R97) -/

/-- Bit `i` of a frame's byte is its data sample `i`. -/
theorem frameByte_getLsbD (f : Nat → Bool) {i : Nat} (hi : i < 8) :
    (frameByte f).getLsbD i = f (2 * i + 2) := by
  interval_cases i <;> simp [frameByte, bitOf]

theorem frameByte_eq_of_data {a : Byte} (h : ∀ i, i < 8 → a.getLsbD i = f (2 * i + 2)) : a = frameByte f :=
  BitVec.eq_of_getLsbD_eq fun i hi => (h i hi).trans (frameByte_getLsbD f hi).symm

/-- The flags of the four checks that failed, by name. -/
def checkFlags (start par stop offduty : Bool) : Byte :=
  raiseFlag offduty flagOffduty (raiseFlag stop flagStop (raiseFlag par flagParity (raiseFlag start flagStart 0)))

theorem checkFlags_eq_or (start par stop offduty : Bool) :
    checkFlags start par stop offduty =
      (if start then 0x01 else 0) ||| (if par then 0x02 else 0) ||| (if stop then 0x04 else 0) |||
        (if offduty then 0x08 else 0) := by
  revert start par stop offduty; decide

theorem raiseFlag_flagStart (start par stop offduty failed : Bool) :
    raiseFlag failed flagStart (checkFlags start par stop offduty) =
      checkFlags (start || failed) par stop offduty := by
  revert start par stop offduty failed; decide

theorem raiseFlag_flagParity (start par stop offduty failed : Bool) :
    raiseFlag failed flagParity (checkFlags start par stop offduty) =
      checkFlags start (par || failed) stop offduty := by
  revert start par stop offduty failed; decide

theorem raiseFlag_flagStop (start par stop offduty failed : Bool) :
    raiseFlag failed flagStop (checkFlags start par stop offduty) =
      checkFlags start par (stop || failed) offduty := by
  revert start par stop offduty failed; decide

theorem raiseFlag_flagOffduty (start par stop offduty failed : Bool) :
    raiseFlag failed flagOffduty (checkFlags start par stop offduty) =
      checkFlags start par stop (offduty || failed) := by
  revert start par stop offduty failed; decide

/-- The flags of the checks among the first `p` samples of the frame. -/
def flagsBefore (f : Nat → Bool) (p : Nat) : Byte :=
  checkFlags (decide (0 < p) && f 0) (decide (18 < p) && (f 18 != parity (frameByte f)))
    (decide (20 < p) && !f 20) ((List.range (p / 2)).any fun k => !f (2 * k + 1))

theorem flagsBefore_zero (f : Nat → Bool) : flagsBefore f 0 = 0 := rfl

/-- All 22 samples have all the checks of the frame. -/
theorem flagsBefore_all (f : Nat → Bool) : flagsBefore f 22 = frameFlags f := rfl

/-- The flags after one more sample, by the position of that sample (R153). -/
theorem flagsBefore_stuffing (hp : p % 2 = 1) :
    flagsBefore f (p + 1) = raiseFlag (!f p) flagOffduty (flagsBefore f p) := by
  have hhalf : (p + 1) / 2 = p / 2 + 1 := by omega
  have hodd : 2 * (p / 2) + 1 = p := by omega
  have h0 : 0 < p := by omega
  have h18 : 18 < p + 1 ↔ 18 < p := by omega
  have h20 : 20 < p + 1 ↔ 20 < p := by omega
  simp [flagsBefore, raiseFlag_flagOffduty, List.range_succ, hhalf, hodd, h0, h18, h20]

theorem flagsBefore_start : flagsBefore f 1 = raiseFlag (f 0) flagStart (flagsBefore f 0) := by
  simp [flagsBefore, raiseFlag_flagStart]

theorem flagsBefore_data {j : Nat} (hj : j < 8) : flagsBefore f (2 * j + 3) = flagsBefore f (2 * j + 2) := by
  have hhalf : (2 * j + 3) / 2 = (2 * j + 2) / 2 := by omega
  have h18 : 18 < 2 * j + 3 ↔ 18 < 2 * j + 2 := by omega
  have h20 : 20 < 2 * j + 3 ↔ 20 < 2 * j + 2 := by omega
  simp [flagsBefore, hhalf, h18, h20]

theorem flagsBefore_parity :
    flagsBefore f 19 = raiseFlag (f 18 != parity (frameByte f)) flagParity (flagsBefore f 18) := by
  simp [flagsBefore, raiseFlag_flagParity]

theorem flagsBefore_stop : flagsBefore f 21 = raiseFlag (!f 20) flagStop (flagsBefore f 20) := by
  simp [flagsBefore, raiseFlag_flagStop]

/-! ## A frame, sample by sample (R157, R158) -/

/-- What the decoder holds of the first `p` samples of a frame: the data samples at their places, and the flags of the
checks that failed. -/
structure HoldsSamples (f : Nat → Bool) (p : Nat) (d : Decoder) : Prop where
  data : ∀ i, i < 8 → d.data.getLsbD i = (decide (2 * i + 2 < p) && f (2 * i + 2))
  flags : d.errorFlags = flagsBefore f p

/-- The decoder is due to take sample `p` of the frame. -/
structure FrameSoFar (f : Nat → Bool) (p : Nat) (d : Decoder) : Prop extends HoldsSamples f p d where
  inv : DecInv d
  ongoing : d.ongoing = true
  noEdge : d.expectingEdge = false
  total : d.totalCnt.toNat = p

/-- A frame begun is due to take its first sample. -/
theorem frameSoFar_begun (f : Nat → Bool) : FrameSoFar f 0 { Decoder.zero with ongoing := true } where
  data _ _ := by simp [Decoder.zero]
  flags := rfl
  inv := decStart_keeps_decInv decInv_zero rfl
  ongoing := rfl
  noEdge := rfl
  total := rfl

theorem HoldsSamples.data_eq (h : HoldsSamples f p d) (hp : 16 < p) : d.data = frameByte f := by
  refine frameByte_eq_of_data fun i hi => ?_
  have hlt : 2 * i + 2 < p := by omega
  simp [h.data i hi, hlt]

/-- A sample that is no data sample leaves the data. -/
theorem HoldsSamples.succ_of_flags {d' : Decoder} (h : HoldsSamples f p d)
    (hp : ∀ i, i < 8 → 2 * i + 2 ≠ p) (hdata : d'.data = d.data)
    (hflags : d'.errorFlags = flagsBefore f (p + 1)) :
    HoldsSamples f (p + 1) d' where
  data i hi := by
    have hlt : 2 * i + 2 < p + 1 ↔ 2 * i + 2 < p := by have := hp i hi; omega
    simp [hdata, h.data i hi, hlt]
  flags := hflags

/-- R25 (ii) of 10_state: the samples of odd index are the stuffing samples. -/
theorem FrameSoFar.expectingOffduty_eq (h : FrameSoFar f p d) : d.expectingOffduty = decide (p % 2 = 1) := by
  rw [h.inv.offdutyIsOdd, BitVec.getLsbD, Nat.testBit_zero, h.total]

/-- A data sample is accumulated: R25 (iii) of 10_state has the data-bit counter at its place. -/
theorem FrameSoFar.absorb_data {j : Nat} (h : FrameSoFar f (2 * j + 2) d) (hj : j < 8) :
    HoldsSamples f (2 * j + 3) (decAbsorb (f (2 * j + 2)) d) := by
  have hplace : d.dataCnt.toNat = j := by
    rw [h.inv.dataCount h.ongoing, h.total]
    omega
  have hlogical : d.expectingOffduty = false := by simp [h.expectingOffduty_eq]
  rw [decAbsorb_logical hlogical, h.total, decLogical_data (by omega) (by omega)]
  refine ⟨fun i hi => ?_, h.flags.trans (flagsBefore_data hj).symm⟩
  rw [getLsbD_or_bitOf_shiftLeft _ _ _ hi, h.data i hi, hplace]
  obtain hlt | rfl | hgt := Nat.lt_trichotomy i j
  · have hbefore : 2 * i + 2 < 2 * j + 2 := by omega
    have hafter : 2 * i + 2 < 2 * j + 3 := by omega
    simp [hbefore, hafter, hlt.ne]
  · simp
  · have hbefore : ¬ 2 * i + 2 < 2 * j + 2 := by omega
    have hafter : ¬ 2 * i + 2 < 2 * j + 3 := by omega
    simp [hbefore, hafter, hgt.ne']

/-- Any sample, absorbed at its position, is held (R153). -/
theorem FrameSoFar.absorb (h : FrameSoFar f p d) (hp : p < 22) : HoldsSamples f (p + 1) (decAbsorb (f p) d) := by
  have hoff := h.expectingOffduty_eq
  obtain hodd | rfl | ⟨j, hj, rfl⟩ | rfl | rfl :
      p % 2 = 1 ∨ p = 0 ∨ (∃ j, j < 8 ∧ p = 2 * j + 2) ∨ p = 18 ∨ p = 20 := by
    by_cases hdata : p % 2 = 0 ∧ 2 ≤ p ∧ p ≤ 16
    · exact .inr (.inr (.inl ⟨p / 2 - 1, by omega, by omega⟩))
    · omega
  case inl =>
    rw [decAbsorb_stuffing (by simpa [hodd] using hoff)]
    exact h.succ_of_flags (by omega) rfl (by rw [h.flags, flagsBefore_stuffing hodd])
  case inr.inl =>
    rw [decAbsorb_logical hoff, h.total, decLogical_start]
    exact h.succ_of_flags (by omega) rfl (by rw [h.flags, flagsBefore_start])
  case inr.inr.inl => exact h.absorb_data hj
  case inr.inr.inr.inl =>
    rw [decAbsorb_logical hoff, h.total, decLogical_parity, h.data_eq (by omega)]
    exact h.succ_of_flags (by omega) (h.data_eq (by omega)).symm (by rw [h.flags, flagsBefore_parity])
  case inr.inr.inr.inr =>
    rw [decAbsorb_logical hoff, h.total, decLogical_stop]
    exact h.succ_of_flags (by omega) rfl (by rw [h.flags, flagsBefore_stop])

/-- A sample before the last and the edge after it lead to the next sample. -/
theorem FrameSoFar.advance (h : FrameSoFar f p d) (hp : p < 21) :
    FrameSoFar f (p + 1) { decAdvance (decAbsorb (f p) d) with expectingEdge := false } := by
  have hheld := h.absorb (by omega)
  have hlt : d.totalCnt.toNat < 21 := h.total.trans_lt hp
  have hinv : DecInv (decAdvance (decAbsorb (f p) d)) :=
    decSample_keeps_decInv h.inv (decSample_takes h.ongoing h.noEdge hlt)
  have hon : (decAdvance (decAbsorb (f p) d)).ongoing = true := decAbsorb_ongoing.trans h.ongoing
  exact
    { data := hheld.data
      flags := hheld.flags
      inv := decEdge_keeps_decInv hinv (decEdge_releases hon rfl)
      ongoing := hon
      noEdge := rfl
      total := by rw [← h.total]; exact toNat_totalCnt_succ hlt }

/-- The last sample reports the frame (R154). -/
theorem FrameSoFar.report (h : FrameSoFar f 21 d) :
    decSample (f 21) d = (⟨true, true, frameByte f, frameFlags f⟩, Decoder.zero) := by
  have hheld := h.absorb (by omega)
  rw [decSample_reports h.ongoing h.noEdge (BitVec.eq_of_toNat_eq h.total), hheld.data_eq (by omega),
    hheld.flags, flagsBefore_all]

/-- A sample and the edge after it, performed on a decoder that takes the sample. -/
theorem execAll_sample_edge (ho : s.dec.ongoing = true) (he : s.dec.expectingEdge = false)
    (hc : s.dec.totalCnt.toNat < 21) (is : List Instr) :
    execAll (.decSample b :: .decEdge :: is) s =
      execAll is ((s.setDec { decAdvance (decAbsorb b s.dec) with expectingEdge := false }).respond
        (.decoder .accept)) := by
  have hon : (decAdvance (decAbsorb b s.dec)).ongoing = true := decAbsorb_ongoing.trans ho
  simp only [execAll, exec_decSample, decSample_takes ho he hc, exec_decEdge, answerEvent, respond_dec,
    setDec_dec, decEdge_releases hon rfl]
  rfl

/-- From sample `p` on, the rest of the frame reports it, by induction on the number of samples after `p`. -/
theorem execAll_samplesAndEdges {n : Nat} (hn : p + n = 21) (h : FrameSoFar f p s.dec) :
    execAll (samplesAndEdges ((List.range' p (n + 1)).map f)) s =
      .next ((s.setDec Decoder.zero).respond (.decoder ⟨true, true, frameByte f, frameFlags f⟩)) := by
  induction n generalizing p s with
  | zero =>
    obtain rfl : p = 21 := hn
    simp only [List.range'_succ, List.range'_zero, List.map_cons, List.map_nil, samplesAndEdges, execAll,
      exec_decSample, h.report, answerEvent]
  | succ n ih =>
    have hp : p < 21 := by omega
    have hrest := ih (p := p + 1) (s := (s.setDec { decAdvance (decAbsorb (f p) s.dec) with
      expectingEdge := false }).respond (.decoder .accept)) (by omega) (h.advance hp)
    simp only [List.range'_succ, List.map_cons, samplesAndEdges] at hrest ⊢
    rw [execAll_sample_edge h.ongoing h.noEdge (h.total.trans_lt hp), hrest]
    rfl

/-- Settles O18: the start edge begins the frame, and its 22 samples are then taken in turn. -/
theorem anyFrameDecodesToByteAndFlags : Obligations.AnyFrameDecodesToByteAndFlags := by
  intro s f ho
  have hframe := execAll_samplesAndEdges (f := f) (p := 0) (n := 21)
    (s := (s.setDec { Decoder.zero with ongoing := true }).respond (.decoder .accept)) rfl (frameSoFar_begun f)
  rw [decFrameOps, samplesOf, List.range_eq_range', execAll, exec_decStart, decStart_begins ho]
  exact hframe

/-! ## The frame of a byte, with samples flipped (R159) -/

/-- The samples of a formatted byte, by position (43_phy_tx R190). -/
theorem formatByte_start (a : Byte) : (formatByte a).getLsbD 0 = false := by
  simp [formatByte, fmtwordBits, bitOf]

theorem formatByte_data (a : Byte) {i : Nat} (hi : i < 8) :
    (formatByte a).getLsbD (2 * i + 2) = a.getLsbD i := by
  interval_cases i <;> simp [formatByte, fmtwordBits, bitOf]

theorem formatByte_parity (a : Byte) : (formatByte a).getLsbD 18 = parity a := by
  simp [formatByte, fmtwordBits, bitOf]

theorem formatByte_stop (a : Byte) : (formatByte a).getLsbD 20 = true := by
  simp [formatByte, fmtwordBits, bitOf]

theorem formatByte_stuffing (a : Byte) {k : Nat} (hk : k < 11) : (formatByte a).getLsbD (2 * k + 1) = true := by
  interval_cases k <;> simp [formatByte, fmtwordBits, bitOf]

/-- The frame of a byte, each sample of it flipped or not. -/
def flippedFrame (a : Byte) (flip : Nat → Bool) (p : Nat) : Bool := (formatByte a).getLsbD p ^^ flip p

section
variable {a : Byte} {flip : Nat → Bool}

theorem frameByte_flippedFrame (hdata : ∀ i, i < 8 → flip (2 * i + 2) = false) :
    frameByte (flippedFrame a flip) = a :=
  (frameByte_eq_of_data fun i hi => by
    simp [flippedFrame, formatByte_data a hi, hdata i hi]).symm

theorem stuffingBroken_flippedFrame :
    stuffingBroken (flippedFrame a flip) = (List.range 11).any fun k => flip (2 * k + 1) := by
  rw [stuffingBroken, Bool.eq_iff_iff, List.any_eq_true, List.any_eq_true]
  refine exists_congr fun k => and_congr_right fun hk => ?_
  simp [flippedFrame, formatByte_stuffing a (List.mem_range.1 hk)]

/-- The check of each sample fails exactly when that sample is flipped. -/
theorem frameFlags_flippedFrame (hdata : ∀ i, i < 8 → flip (2 * i + 2) = false) :
    frameFlags (flippedFrame a flip) =
      checkFlags (flip 0) (flip 18) (flip 20) ((List.range 11).any fun k => flip (2 * k + 1)) := by
  have hstart : flippedFrame a flip 0 = flip 0 := by
    rw [flippedFrame, formatByte_start, Bool.false_xor]
  have hparity : (flippedFrame a flip 18 != parity a) = flip 18 := by
    rw [flippedFrame, formatByte_parity]
    cases parity a <;> simp
  have hstop : (!flippedFrame a flip 20) = flip 20 := by
    rw [flippedFrame, formatByte_stop, Bool.true_xor, Bool.not_not]
  rw [frameFlags, frameByte_flippedFrame hdata, stuffingBroken_flippedFrame, hstart, hparity, hstop, checkFlags]

end

/-- Settles O19: the frame decodes to its byte and flags, and those are the byte sent and the samples flipped. -/
theorem flippedSamplesSetTheirFlags : Obligations.FlippedSamplesSetTheirFlags := by
  intro s a flip ho hdata
  have hframe := anyFrameDecodesToByteAndFlags s (flippedFrame a flip) ho
  rw [frameByte_flippedFrame hdata, frameFlags_flippedFrame hdata, checkFlags_eq_or] at hframe
  exact hframe

end Sys2Proof.Machine
end

section
/-! # Initialisation and the receive path (spec/42_phy_rx.md R171 to R181)

Each operation is first said as an equation per case. The completion of a frame has three: the byte is appended, or
counted as an overflow, or its errors are counted. A received frame is then the decoder's induction over its samples
again (`FrameSoFar`), each sample and the edge after it now fed by two ticks, and its last tick is one of those
completions. -/

namespace Sys2Proof.Machine

variable {s u : State} {d : Decoder} {r : DecResult} {l : Bool} {f : Nat → Bool} {p : Nat}

/-! ## PHY.INIT and PHY.TXEN (R171, R172) -/

theorem exec_phyInit_active (ha : s.instanceActive = true) :
    exec .phyInit s = .next { s with resp := .status .badParam } := if_pos ha

theorem exec_phyInit_notValid (ha : s.instanceActive = false) (hv : s.fifo.valid = false) :
    exec .phyInit s =
      if (fifoConstruct s.params.fifoCap 1 s.fifo).1 = .ok then
        .next { s with
          fifo := (fifoConstruct s.params.fifoCap 1 s.fifo).2
          dec := Decoder.zero
          phy := phyInitialised s.params s.phy
          instanceActive := true
          driven := s.driven ++ [true]
          resp := .status .ok }
      else .next { s with resp := .status (fifoConstruct s.params.fifoCap 1 s.fifo).1 } :=
  (if_neg (by simp [ha])).trans (if_neg (by simp [hv]))

/-- Settles O20: on a block not initialised yet, what `PHY.INIT` does is what its construction of the FIFO
answers. -/
theorem phyInitInitialisesOnce : Obligations.PhyInitInitialisesOnce := by
  refine fun s => ⟨exec_phyInit_active, fun ha hv hcap => ?_, fun ha hv hcap => ?_⟩
  · rw [exec_phyInit_notValid ha hv, fifoConstruct_badParam (by omega)]
    rfl
  · rw [exec_phyInit_notValid ha hv, fifoConstruct_ok (by omega)]
    exact ⟨_, rfl, rfl, rfl, rfl, rfl, rfl, rfl⟩

/-- Settles O21: an initialised block passes the guard, and the rest is the definition. -/
theorem phyTxenDrivesResetLine : Obligations.PhyTxenDrivesResetLine :=
  fun _ _ ha => withPhyInitialised_pass ha _

/-! ## PHY.EDGEIRQ (R173, R178) -/

theorem exec_phyEdgeirq_armed (ha : s.instanceActive = true) (he : s.phy.edgeIrqEnabled = true) :
    exec .phyEdgeirq s = .next ((takeEdge s).respond (.status .ok)) :=
  (withPhyInitialised_pass ha _).trans (if_pos he)

/-- The machine after an edge that has started a frame. -/
def State.frameBegun (s : State) : State :=
  { s with
    dec := { Decoder.zero with ongoing := true }
    phy := phyToRx { s.phy with edgePending := false }
    resp := .status .ok }

theorem exec_phyEdgeirq_starts (ha : s.instanceActive = true) (he : s.phy.edgeIrqEnabled = true)
    (ho : s.dec.ongoing = false) :
    exec .phyEdgeirq s = .next s.frameBegun := by
  rw [exec_phyEdgeirq_armed ha he, takeEdge, decStart_begins ho]
  rfl

theorem exec_phyEdgeirq_resynchronises (ha : s.instanceActive = true) (he : s.phy.edgeIrqEnabled = true)
    (ho : s.dec.ongoing = true) :
    exec .phyEdgeirq s = .next { s with
      dec := Decoder.zero
      phy := phyToIdle { s.phy with edgePending := false, logReentrant := s.phy.logReentrant + 1 }
      resp := .status .ok } := by
  rw [exec_phyEdgeirq_armed ha he, takeEdge, decStart_rejects ho]
  rfl

theorem exec_phyEdgeirq_masked (ha : s.instanceActive = true) (he : s.phy.edgeIrqEnabled = false) :
    exec .phyEdgeirq s = .next ((missEdge s).respond .noStep) :=
  (withPhyInitialised_pass ha _).trans (if_neg (by simp [he]))

/-- Settles O22: an armed edge is accepted or rejected by the decoder, and a masked one only reaches the external
detector. -/
theorem edgeStartsFrameOrResynchronises : Obligations.EdgeStartsFrameOrResynchronises :=
  fun _ ha =>
    ⟨fun he ho => ⟨_, exec_phyEdgeirq_starts ha he ho, rfl⟩,
      fun he ho => ⟨_, exec_phyEdgeirq_resynchronises ha he ho, rfl⟩,
      fun he => ⟨_, exec_phyEdgeirq_masked ha he, rfl⟩⟩

/-! ## PHY.READ (R177) -/

/-- Settles O26: the read is a pop of an element that is one byte. -/
theorem phyReadPopsOneByte : Obligations.PhyReadPopsOneByte := by
  refine fun s ha hv hesz hr => ⟨fun hempty => ?_, fun hne => ?_⟩
  · rw [exec_phyRead ha, popAndRespond_empty hv hempty]
    rfl
  · rw [exec_phyRead ha, popAndRespond_element hv hr hne, fifoSlot_oneByte hesz]
    rfl

/-! ## A tick in Rx (R175) -/

/-- The block takes a tick as one of a frame being received. -/
structure Receiving (s : State) : Prop where
  active : s.instanceActive = true
  timer : s.phy.timerRunning = true
  bus : s.phy.busState = .rx

theorem Receiving.setDec (h : Receiving s) (d : Decoder) : Receiving (s.setDec d) :=
  ⟨h.active, h.timer, h.bus⟩

theorem exec_phyTick_rx (h : Receiving s) :
    exec (.phyTick l) s = thenRespond (.status .ok) (tickRx l s) :=
  execPhyTick_rx h.active h.timer h.bus

/-- A tick whose event does not finish the frame changes the decoder only. -/
theorem exec_phyTick_feeds (h : Receiving s) (hd : decFeedTick l s.dec = (r, d)) (hfin : r.finished = false) :
    exec (.phyTick l) s = .next ((s.setDec d).respond (.status .ok)) := by
  rw [exec_phyTick_rx h, tickRx, hd]
  simp [hfin, thenRespond]

/-- A tick whose event finishes the frame completes it (R176). -/
theorem exec_phyTick_completes (h : Receiving s) (hd : decFeedTick l s.dec = (r, d)) (hfin : r.finished = true) :
    exec (.phyTick l) s = thenRespond (.status .ok) (completeFrame r (s.setDec d)) := by
  rw [exec_phyTick_rx h, tickRx, hd]
  simp [hfin]

theorem decFeedTick_sample (ho : d.ongoing = true) (he : d.expectingEdge = false) :
    decFeedTick l d = decSample l d := if_pos (by simp [decWant, ho, he])

theorem decFeedTick_edge (h : d.ongoing = false ∨ d.expectingEdge = true) : decFeedTick l d = decEdge d :=
  if_neg (by obtain h | h := h <;> simp [decWant, h])

/-- Only the 22nd sample finishes a frame. -/
theorem decSample_not_finished (hc : d.totalCnt ≠ 21) : (decSample l d).1.finished = false := by
  rcases h : decSample l d with ⟨r, d'⟩
  obtain ⟨-, rfl, -⟩ | ⟨-, -, hlast, -⟩ | ⟨-, -, -, rfl, -⟩ := decSample_cases h
  · rfl
  · exact absurd hlast hc
  · rfl

theorem decEdge_not_finished (d : Decoder) : (decEdge d).1.finished = false := by
  rcases h : decEdge d with ⟨r, d'⟩
  obtain ⟨-, rfl, -⟩ | ⟨-, -, rfl, -⟩ := decEdge_cases h <;> rfl

/-- Settles O24: the event that the tick feeds is the one that `DEC.WANT` selects, and neither finishes the frame. -/
theorem rxTickFeedsDecoder : Obligations.RxTickFeedsDecoder := by
  refine fun s l ha ht hb => ⟨fun ho he hc => ⟨_, exec_decSample l s, ?_⟩, fun h => ⟨_, exec_decEdge s, ?_⟩⟩
  · exact exec_phyTick_feeds ⟨ha, ht, hb⟩ (decFeedTick_sample ho he) (decSample_not_finished hc)
  · exact exec_phyTick_feeds ⟨ha, ht, hb⟩ (decFeedTick_edge h) (decEdge_not_finished s.dec)

/-! ## The completion of a frame (R176) -/

/-- What the completion of a clean frame pushes: the byte received, and for a FIFO of wider elements a free element
(log entry 8). -/
def receivedElement (b : Byte) (s : State) : List Byte :=
  if s.fifo.esz = 1 then [b] else freeElement s.freeCtr s.fifo.esz

theorem receivedElement_byte {b : Byte} (h : s.fifo.esz = 1) : receivedElement b s = [b] := if_pos h

theorem length_receivedElement (b : Byte) (s : State) : (receivedElement b s).length = s.fifo.esz := by
  by_cases h : s.fifo.esz = 1
  · simp [receivedElement, h]
  · simp [receivedElement, h, freeElement]

theorem pushElement_received {b : Byte} {st : Status} {g : Fifo} (hesz : 1 ≤ s.fifo.esz)
    (hp : fifoPush (receivedElement b s) s.fifo = .ok (st, g)) :
    pushElement (elementOperand s.fifo.esz b []) s =
      .ok (st, { s with fifo := g, freeCtr := if s.fifo.esz ≠ 1 then s.freeCtr + 1 else s.freeCtr }) := by
  by_cases h : s.fifo.esz = 1
  · have hop : elementOperand s.fifo.esz b [] = some (receivedElement b s) := by
      simp [elementOperand, receivedElement, h]
    rw [hop, pushElement_element hp, if_neg (not_not_intro h)]
    rfl
  · have hop : elementOperand s.fifo.esz b [] = none := by
      have hempty : 0 ≠ s.fifo.esz := by omega
      simp [elementOperand, h, hempty]
    rw [receivedElement, if_neg h] at hp
    rw [hop, pushElement_free hp, if_pos h]
    rfl

theorem completeFrame_clean {st : Status} {g : Fifo} (h0 : r.errorFlags = 0) (hv : s.fifo.valid = true)
    (hesz : 1 ≤ s.fifo.esz) (hp : fifoPush (receivedElement r.data s) s.fifo = .ok (st, g)) :
    completeFrame r s = .next { s with
      fifo := g
      phy := phyToIdle (phyCountOverflow st s.phy)
      freeCtr := if s.fifo.esz ≠ 1 then s.freeCtr + 1 else s.freeCtr } := by
  rw [completeFrame, if_pos h0, if_neg (by simp [hv]), pushElement_received hesz hp]
  rfl

/-- A clean byte that finds room is pushed. -/
theorem completeFrame_room (h0 : r.errorFlags = 0) (hinv : fifoInv s.fifo) (hv : s.fifo.valid = true)
    (hlt : fifoLength s.fifo < s.fifo.cap) :
    completeFrame r s = .next { s with
      fifo := s.fifo.pushed (receivedElement r.data s)
      phy := phyToIdle s.phy
      freeCtr := if s.fifo.esz ≠ 1 then s.freeCtr + 1 else s.freeCtr } := by
  obtain ⟨hesz, -, hr, hw⟩ := hinv hv
  have hroom : fifoNext s.fifo s.fifo.wr ≠ s.fifo.rd := mt (fifoNext_wr_eq_rd_iff hr hw).1 hlt.ne
  exact completeFrame_clean h0 hv hesz (fifoPush_room hroom hw _)

/-- A clean byte that finds the FIFO full is dropped and counted. -/
theorem completeFrame_full (h0 : r.errorFlags = 0) (hinv : fifoInv s.fifo) (hv : s.fifo.valid = true)
    (hlen : fifoLength s.fifo = s.fifo.cap) :
    completeFrame r s = .next { s with
      phy := phyToIdle { s.phy with logOverflow := s.phy.logOverflow + 1 }
      freeCtr := if s.fifo.esz ≠ 1 then s.freeCtr + 1 else s.freeCtr } := by
  obtain ⟨hesz, -, hr, hw⟩ := hinv hv
  exact completeFrame_clean h0 hv hesz (fifoPush_full ((fifoNext_wr_eq_rd_iff hr hw).2 hlen) _)

/-- A FIFO of one-byte elements takes the byte itself, and no free value is drawn. -/
theorem completeFrame_byte_room (h0 : r.errorFlags = 0) (hinv : fifoInv s.fifo) (hv : s.fifo.valid = true)
    (hesz : s.fifo.esz = 1) (hlt : fifoLength s.fifo < s.fifo.cap) :
    completeFrame r s = .next { s with fifo := s.fifo.pushed [r.data], phy := phyToIdle s.phy } := by
  rw [completeFrame_room h0 hinv hv hlt, receivedElement_byte hesz, if_neg (not_not_intro hesz)]

@[inherit_doc completeFrame_byte_room]
theorem completeFrame_byte_full (h0 : r.errorFlags = 0) (hinv : fifoInv s.fifo) (hv : s.fifo.valid = true)
    (hesz : s.fifo.esz = 1) (hlen : fifoLength s.fifo = s.fifo.cap) :
    completeFrame r s =
      .next { s with phy := phyToIdle { s.phy with logOverflow := s.phy.logOverflow + 1 } } := by
  rw [completeFrame_full h0 hinv hv hlen, if_neg (not_not_intro hesz)]

/-- The errors of a byte that is not clean are counted. -/
theorem completeFrame_erroneous (h : r.errorFlags ≠ 0) :
    completeFrame r s = .next { s with phy := phyToIdle (phyCountErrors r.errorFlags s.phy) } := if_neg h

/-- The 22nd sample, a stuffing sample, of either level: the frame is finished (41_rx_decoder R154). -/
theorem decFeedTick_last (ho : d.ongoing = true) (he : d.expectingEdge = false) (hc : d.totalCnt = 21)
    (hoff : d.expectingOffduty = true) :
    decFeedTick l d =
      (⟨true, true, d.data, if l then d.errorFlags else d.errorFlags ||| 0x08⟩, Decoder.zero) := by
  rw [decFeedTick_sample ho he, decSample_reports ho he hc, decAbsorb_stuffing hoff, raiseFlag_not]
  rfl

/-- The byte of a FIFO of one-byte elements that a push writes. -/
theorem cellRead_pushed_byte {g : Fifo} {b : Byte} (hg : cellsWf g.store = true) (hesz : g.esz = 1) (a : Nat) :
    cellRead (g.pushed [b]).store a = if a = g.wr then b else cellRead g.store a := by
  have hstore : (g.pushed [b]).store = cellWrite g.wr b g.store := by
    simp [Fifo.pushed, hesz, cellWriteAll]
  rw [hstore, cellRead_cellWrite hg]
  simp only [eq_comm]

/-- Settles O25: the frame is clean and finds room, or clean and finds the FIFO full, or erroneous. -/
theorem frameCompletionPushesOrCounts : Obligations.FrameCompletionPushesOrCounts := by
  intro s l flags ha ht hb ho he hc hoff hflags hinv hv hstore
  obtain ⟨-, -, hr, hw⟩ := hinv hv
  have hreport : decFeedTick l s.dec = (⟨true, true, s.dec.data, flags⟩, Decoder.zero) :=
    hflags ▸ decFeedTick_last ho he hc hoff
  rw [exec_phyTick_completes ⟨ha, ht, hb⟩ hreport rfl, fifoContents_length]
  by_cases h0 : flags = 0
  · have hfree : (if flags = 0 ∧ s.fifo.esz ≠ 1 then s.freeCtr + 1 else s.freeCtr) =
        if s.fifo.esz ≠ 1 then s.freeCtr + 1 else s.freeCtr := by simp only [h0, true_and]
    rw [hfree]
    obtain hlen | hlt := (fifoLength_le s.fifo).eq_or_lt
    · rw [completeFrame_full (s := s.setDec Decoder.zero) h0 hinv hv hlen]
      exact ⟨_, rfl, rfl, fun _ => ⟨rfl, rfl, rfl, rfl⟩, fun _ hlt => absurd hlen hlt.ne,
        fun _ _ => ⟨rfl, rfl⟩, fun hne => absurd h0 hne⟩
    · have hlength := length_receivedElement s.dec.data s
      rw [completeFrame_room (s := s.setDec Decoder.zero) h0 hinv hv hlt]
      refine ⟨_, rfl, rfl, fun _ => ⟨rfl, rfl, rfl, rfl⟩, fun _ _ => ⟨?_, rfl, fun hesz => ?_, ?_, rfl⟩,
        fun _ hlen => absurd hlen hlt.ne, fun hne => absurd h0 hne⟩
      · exact ⟨receivedElement s.dec.data s, hlength, receivedElement_byte,
          fifoContents_pushed hr hw hlt hstore hlength⟩
      · have hwritten := cellRead_pushed_byte (b := s.dec.data) hstore hesz s.fifo.wr
        rwa [if_pos rfl, ← receivedElement_byte hesz] at hwritten
      · exact fun a hout => cellRead_pushed_outside hstore hlength hout
  · have hfree : (if flags = 0 ∧ s.fifo.esz ≠ 1 then s.freeCtr + 1 else s.freeCtr) = s.freeCtr :=
      if_neg fun h => h0 h.1
    rw [hfree, completeFrame_erroneous h0]
    exact ⟨_, rfl, rfl, fun h => absurd h h0, fun h => absurd h h0, fun h => absurd h h0,
      fun _ => ⟨rfl, rfl, rfl, rfl, rfl, rfl⟩⟩

/-! ## A received frame (R181) -/

/-- Tick `n` of a received frame: an even one sees a sample, an odd one a level between two samples. -/
def frameTick (f between : Nat → Bool) (n : Nat) : Instr :=
  .phyTick (if n % 2 = 0 then f (n / 2) else between n)

theorem frameTick_sample (f between : Nat → Bool) (p : Nat) : frameTick f between (2 * p) = .phyTick (f p) := by
  simp [frameTick]

theorem frameTick_between (f between : Nat → Bool) (p : Nat) :
    frameTick f between (2 * p + 1) = .phyTick (between (2 * p + 1)) := by
  have hodd : (2 * p + 1) % 2 = 1 := by omega
  simp [frameTick, hodd]

theorem execAll_cons_next {i : Instr} {is : List Instr} (h : exec i s = .next u) :
    execAll (i :: is) s = execAll is u := by
  rw [execAll, h]

theorem execAll_singleton (i : Instr) (s : State) : execAll [i] s = exec i s := by
  rw [execAll]
  cases exec i s <;> rfl

/-- Within the ticks of a frame, a tick that does not finish it changes the decoder only. -/
theorem execAll_tick_feeds (hrx : Receiving s) (hresp : s.resp = .status .ok)
    (hd : decFeedTick l s.dec = (.accept, d)) (is : List Instr) :
    execAll (.phyTick l :: is) s = execAll is (s.setDec d) := by
  have hanswer : (s.setDec d).respond (.status .ok) = s.setDec d := by
    rw [← hresp]
    rfl
  rw [execAll_cons_next (exec_phyTick_feeds hrx hd rfl), hanswer]

/-- Two ticks feed a sample before the last and the edge after it, whatever the level of the second. -/
theorem execAll_sample_between (hrx : Receiving s) (hresp : s.resp = .status .ok) (h : FrameSoFar f p s.dec)
    (hp : p < 21) (is : List Instr) :
    execAll (.phyTick (f p) :: .phyTick l :: is) s =
      execAll is (s.setDec { decAdvance (decAbsorb (f p) s.dec) with expectingEdge := false }) := by
  have hsample : decFeedTick (f p) s.dec = (.accept, decAdvance (decAbsorb (f p) s.dec)) :=
    (decFeedTick_sample h.ongoing h.noEdge).trans (decSample_takes h.ongoing h.noEdge (h.total.trans_lt hp))
  have hedge : decFeedTick l (decAdvance (decAbsorb (f p) s.dec)) =
      (.accept, { decAdvance (decAbsorb (f p) s.dec) with expectingEdge := false }) :=
    (decFeedTick_edge (.inr rfl)).trans (decEdge_releases (decAbsorb_ongoing.trans h.ongoing) rfl)
  rw [execAll_tick_feeds hrx hresp hsample,
    execAll_tick_feeds (s := s.setDec (decAdvance (decAbsorb (f p) s.dec))) (hrx.setDec _) hresp hedge]
  rfl

/-- From sample `p` on, the ticks of the rest of the frame complete it, by induction on the number of samples after
`p`. -/
theorem execAll_frameTicks {n : Nat} (hn : p + n = 21) (between : Nat → Bool) (hrx : Receiving s)
    (hresp : s.resp = .status .ok) (h : FrameSoFar f p s.dec) :
    execAll ((List.range' (2 * p) (2 * n + 1)).map (frameTick f between)) s =
      thenRespond (.status .ok)
        (completeFrame ⟨true, true, frameByte f, frameFlags f⟩ (s.setDec Decoder.zero)) := by
  induction n generalizing p s with
  | zero =>
    obtain rfl : p = 21 := hn
    have hlast : decFeedTick (f 21) s.dec = (⟨true, true, frameByte f, frameFlags f⟩, Decoder.zero) :=
      (decFeedTick_sample h.ongoing h.noEdge).trans h.report
    rw [← exec_phyTick_completes hrx hlast rfl, ← frameTick_sample f between]
    exact execAll_singleton _ _
  | succ n ih =>
    have hp : p < 21 := by omega
    have hticks : (List.range' (2 * p) (2 * (n + 1) + 1)).map (frameTick f between) =
        .phyTick (f p) :: .phyTick (between (2 * p + 1)) ::
          (List.range' (2 * (p + 1)) (2 * n + 1)).map (frameTick f between) := by
      rw [← frameTick_sample f between p, ← frameTick_between f between p]
      rfl
    rw [hticks, execAll_sample_between hrx hresp h hp]
    exact ih (by omega) (hrx.setDec _) hresp (h.advance hp)

/-- An armed edge in Idle and the ticks of a frame complete that frame. -/
theorem execAll_edge_frameTicks (ha : s.instanceActive = true) (he : s.phy.edgeIrqEnabled = true)
    (ho : s.dec.ongoing = false) (f between : Nat → Bool) :
    execAll (.phyEdgeirq :: (List.range 43).map (frameTick f between)) s =
      thenRespond (.status .ok)
        (completeFrame ⟨true, true, frameByte f, frameFlags f⟩ (s.frameBegun.setDec Decoder.zero)) := by
  rw [execAll_cons_next (exec_phyEdgeirq_starts ha he ho), List.range_eq_range']
  exact execAll_frameTicks (p := 0) (n := 21) rfl between ⟨ha, rfl, rfl⟩ rfl (frameSoFar_begun f)

/-- The frame of a byte, no sample of it flipped. -/
theorem flippedFrame_none (b : Byte) : flippedFrame b (fun _ => false) = (formatByte b).getLsbD := by
  funext p
  rw [flippedFrame, Bool.xor_false]

theorem frameByte_formatByte (b : Byte) : frameByte (formatByte b).getLsbD = b := by
  rw [← flippedFrame_none, frameByte_flippedFrame fun _ _ => rfl]

theorem frameFlags_formatByte (b : Byte) : frameFlags (formatByte b).getLsbD = 0 := by
  rw [← flippedFrame_none, frameFlags_flippedFrame fun _ _ => rfl]
  rfl

/-- The orchestrator back in Idle after a frame: of what receiving it wrote, only the timer's load stays. -/
theorem phyToIdle_phyToRx {q : Phy} (hb : q.busState = .idle) (he : q.edgeIrqEnabled = true) :
    phyToIdle (phyToRx q) = { q with timerRunning := false, timerLoad := q.centerOffset } := by
  rw [phyToIdle, ← hb, ← he]
  rfl

/-- The machine after a received frame, with the FIFO and the overflow counter that its completion leaves. -/
def State.afterFrame (s : State) (g : Fifo) (overflow : Counter) : State :=
  { s with
    fifo := g
    resp := .status .ok
    phy := { s.phy with
      timerRunning := false
      timerLoad := s.phy.centerOffset
      edgePending := false
      logOverflow := overflow } }

/-- A frame begun in Idle and ended has left nothing but the FIFO, the overflow counter and the timer's load. -/
theorem frameBegun_ended (hb : s.phy.busState = .idle) (he : s.phy.edgeIrqEnabled = true)
    (hdec : s.dec = Decoder.zero) (g : Fifo) (overflow : Counter) :
    { s.frameBegun with
      dec := Decoder.zero
      fifo := g
      phy := phyToIdle { s.frameBegun.phy with logOverflow := overflow } } = s.afterFrame g overflow := by
  have hphy := phyToIdle_phyToRx (q := { s.phy with edgePending := false, logOverflow := overflow }) hb he
  rw [← hdec]
  exact congrArg (fun q => { s with fifo := g, resp := .status .ok, phy := q }) hphy

/-- Settles O27: the ticks complete the frame, which is the byte with no flag, and it finds room or the FIFO full. -/
theorem receivedFrameReachesFifo : Obligations.ReceivedFrameReachesFifo := by
  intro s b between ha hb he hdec hinv hv hesz hstore
  obtain ⟨-, -, hr, hw⟩ := hinv hv
  have hrun := execAll_edge_frameTicks ha he (by rw [hdec]; rfl) (formatByte b).getLsbD between
  rw [frameByte_formatByte, frameFlags_formatByte] at hrun
  rw [fifoContents_length]
  obtain hlen | hlt := (fifoLength_le s.fifo).eq_or_lt
  · rw [completeFrame_byte_full (s := s.frameBegun.setDec Decoder.zero) rfl hinv hv hesz hlen] at hrun
    have hended := frameBegun_ended hb he hdec s.fifo (s.phy.logOverflow + 1)
    exact ⟨s.afterFrame s.fifo (s.phy.logOverflow + 1), hrun.trans (congrArg Host.Outcome.next hended), rfl,
      fun hlt => absurd hlen hlt.ne, fun _ => ⟨rfl, rfl⟩⟩
  · rw [completeFrame_byte_room (s := s.frameBegun.setDec Decoder.zero) rfl hinv hv hesz hlt] at hrun
    have hended := frameBegun_ended hb he hdec (s.fifo.pushed [b]) s.phy.logOverflow
    exact ⟨s.afterFrame (s.fifo.pushed [b]) s.phy.logOverflow, hrun.trans (congrArg Host.Outcome.next hended), rfl,
      fun _ => ⟨fifoContents_pushed hr hw hlt hstore hesz.symm, rfl, cellRead_pushed_byte hstore hesz, rfl⟩,
      fun hlen => absurd hlen hlt.ne⟩

end Sys2Proof.Machine
end

section
/-! # Transmission (spec/43_phy_tx.md R190 to R201)

The formatter, the three steps of `PHY.WRITE` and the two phases of a tick are first said as an equation per case. A
transmission is then one induction over its ticks: `Sending len n s` says where the cursors and the phase stand after
`n` ticks, and `SentSoFar` what has been driven by then. -/

namespace Sys2Proof.Machine

variable {s u : State} {q : Phy} {l : Bool} {n len : Nat} {data : Option (List Byte)} {bytes : List Byte}
  {inSend : Bool} {fs : List FgFrame} {rest : List Agent} {frames : List Bool}

/-! ## The formatter (R190, R191) -/

/-- A word has no bit above the 22 of its frame. -/
theorem formatByte_above (b : Byte) {i : Nat} (h22 : 22 ≤ i) (h32 : i < 32) :
    (formatByte b).getLsbD i = false := by
  interval_cases i <;> simp [formatByte, fmtwordBits, bitOf]

/-- The samples of a word are those of the frame that its bits are. -/
theorem wordSamples_eq_samplesOf (w : FmtWord) : wordSamples w = samplesOf w.getLsbD := rfl

/-- A byte is read back from its word, so two bytes with one word are the same. -/
theorem formatByte_injective : Function.Injective formatByte := fun b c h => by
  rw [← frameByte_formatByte b, h, frameByte_formatByte c]

/-- The logical samples of the frame of a byte (30_encoding R91). -/
theorem formatByte_logical (b : Byte) {k : Nat} (hk : k < 11) :
    (formatByte b).getLsbD (2 * k) =
      if k = 0 then false else if k ≤ 8 then b.getLsbD (k - 1) else if k = 9 then parity b else true := by
  obtain rfl | ⟨i, hi, rfl⟩ | rfl | rfl : k = 0 ∨ (∃ i, i < 8 ∧ k = i + 1) ∨ k = 9 ∨ k = 10 := by
    by_cases hdata : 1 ≤ k ∧ k ≤ 8
    · exact .inr (.inl ⟨k - 1, by omega, by omega⟩)
    · omega
  case inl => exact formatByte_start b
  case inr.inl =>
    rw [if_neg (Nat.succ_ne_zero i), if_pos (by omega)]
    exact formatByte_data b hi
  case inr.inr.inl => exact formatByte_parity b
  case inr.inr.inr => exact formatByte_stop b

/-- Settles O28: the bits of the word, by position. -/
theorem fmtGivesFrameWord : Obligations.FmtGivesFrameWord :=
  fun _ b => ⟨formatByte b, rfl, formatByte_start b, fun _ => formatByte_data b, formatByte_parity b,
    formatByte_stop b, fun _ => formatByte_stuffing b, fun _ => formatByte_above b⟩

/-- Settles O29: the word's bits are a frame, which decodes to its byte and its flags, and those are the byte formatted
and none. -/
theorem formattedByteDecodesBack : Obligations.FormattedByteDecodesBack := by
  refine ⟨fun s b ho => ?_, formatByte_injective, fun b k hk => ⟨formatByte_stuffing b hk, formatByte_logical b hk⟩⟩
  have hframe := anyFrameDecodesToByteAndFlags s (formatByte b).getLsbD ho
  rwa [frameByte_formatByte, frameFlags_formatByte, ← wordSamples_eq_samplesOf] at hframe

/-! ## The check step of `PHY.WRITE` (R193) -/

theorem bufferMissing_eq_true (hlen : 0 < len) : bufferMissing none len = true := by
  simp [bufferMissing, hlen]

theorem bufferMissing_eq_false (h : len = 0 ∨ data ≠ none) : bufferMissing data len = false := by
  obtain rfl | h := h
  · rfl
  · simp [bufferMissing, Option.isSome_iff_ne_none.2 h]

theorem writeCheck_missing (ha : s.instanceActive = true) : writeCheck true len s = .returns .badParam := by
  simp [writeCheck, ha]

theorem writeCheck_tooLong {missing : Bool} (ha : s.instanceActive = true) (hlen : s.params.txbufCap < len) :
    writeCheck missing len s = .returns .badParam := by
  simp [writeCheck, ha, hlen]

theorem writeCheck_empty (ha : s.instanceActive = true) : writeCheck false 0 s = .returns .ok := by
  simp [writeCheck, ha]

/-- With something to send that fits, the bus state decides. -/
theorem writeCheck_fits (ha : s.instanceActive = true) (hpos : 0 < len) (hlen : len ≤ s.params.txbufCap) :
    writeCheck false len s = if s.phy.busState = .idle then .begins else .refuse .writeNotIdle := by
  have hroom : ¬ s.params.txbufCap < len := by omega
  simp [writeCheck, ha, hroom, hpos.ne']

theorem exec_phyWrite_returns {st : Status} (h : writeCheck (bufferMissing data len) len s = .returns st) :
    exec (.phyWrite data len) s = .next { s with resp := .status st } := by
  simp only [exec, execPhyWrite, h]
  rfl

theorem exec_phyWrite_notIdle (ha : s.instanceActive = true) (hpos : 0 < len) (hlen : len ≤ s.params.txbufCap)
    (hdata : data ≠ none) (hb : s.phy.busState ≠ .idle) :
    exec (.phyWrite data len) s = .refused .writeNotIdle := by
  simp only [exec, execPhyWrite, bufferMissing_eq_false (.inr hdata), writeCheck_fits ha hpos hlen, if_neg hb]

theorem exec_phyWrite_begins (ha : s.instanceActive = true) (hpos : 0 < len) (hlen : len ≤ s.params.txbufCap)
    (hdata : data ≠ none) (hb : s.phy.busState = .idle) :
    exec (.phyWrite data len) s = .next { s with
      fg := .writeBegin data len false :: s.fg
      resp := .inProgress } := by
  simp only [exec, execPhyWrite, bufferMissing_eq_false (.inr hdata), writeCheck_fits ha hpos hlen, if_pos hb]
  rfl

/-- Settles O30, check by check in the order of R193. -/
theorem writeChecksOperandsFirst : Obligations.WriteChecksOperandsFirst := by
  refine fun s data len ha => ⟨fun hpos hdata => exec_phyWrite_returns ?_,
    fun hlen => exec_phyWrite_returns (writeCheck_tooLong ha hlen), fun h0 => exec_phyWrite_returns ?_,
    fun hpos hlen hdata => exec_phyWrite_notIdle ha hpos hlen hdata,
    fun hpos hlen hdata => exec_phyWrite_begins ha hpos hlen hdata⟩
  · rw [hdata, bufferMissing_eq_true hpos, writeCheck_missing ha]
  · rw [bufferMissing_eq_false (.inl h0), h0, writeCheck_empty ha]

/-! ## The begin step (R194) -/

theorem fgTurn_writeBegin (hf : s.fg = .writeBegin data len inSend :: fs) :
    fgTurn s = writeBegin data len inSend fs s := by
  simp [fgTurn, hf]

theorem writeBegin_notIdle (hb : s.phy.busState ≠ .idle) :
    writeBegin data len inSend fs s = .refused .writeNotIdle := if_neg fun h => hb h.1

theorem writeBegin_idle (hb : s.phy.busState = .idle) (hpos : 1 ≤ len) (hlen : len ≤ s.params.txbufCap) :
    writeBegin data len inSend fs s =
      .next (((beginTransmission (bufferBytes s.freeCtr data len) s).setFg (.write inSend :: fs)).respond
        .inProgress) := if_pos ⟨hb, hpos, hlen⟩

theorem length_bufferBytes (draw : Nat) (data : Option (List Byte)) (len : Nat) :
    (bufferBytes draw data len).length = len := by
  simp [bufferBytes]

theorem getElem?_bufferBytes (draw : Nat) (data : Option (List Byte)) {j : Nat} (hj : j < len) :
    (bufferBytes draw data len)[j]? = some (bufferByte draw data j) := by
  simp [bufferBytes, hj]

theorem bufferByte_of_lt (draw : Nat) {j : Nat} (hj : j < bytes.length) :
    bufferByte draw (some bytes) j = bytes[j] := by
  simp [bufferByte, hj]

/-- A buffer that is as long as the length given is read as it is. -/
theorem bufferBytes_self (draw : Nat) (bytes : List Byte) :
    bufferBytes draw (some bytes) bytes.length = bytes := by
  refine List.ext_getElem (length_bufferBytes ..) fun j _ hj => ?_
  rw [List.getElem_eq_iff, getElem?_bufferBytes draw _ hj, bufferByte_of_lt draw hj]

/-- Settles O31: the begin step reads the buffer's bytes, and each word is that of its byte. -/
theorem writeBeginsTransmission : Obligations.WriteBeginsTransmission := by
  intro s bytes len inSend fs rest he hsched hf hpos hlen
  have hturn : step s = writeBegin (some bytes) len inSend fs (s.setSched rest) :=
    (step_fgTurn he hsched).trans (fgTurn_writeBegin hf)
  rw [hturn]
  refine ⟨fun hb => writeBegin_notIdle hb, fun hb hw => ⟨_, writeBegin_idle hb hpos hlen, ?_, ?_, ?_⟩⟩
  · refine fun j hj => ⟨bufferByte s.freeCtr (some bytes) j, ?_, fun hin => ?_⟩
    · refine (beginTransmission_word (s := s.setSched rest) hw j).trans ?_
      rw [getElem?_bufferBytes _ _ hj]
      rfl
    · rw [bufferByte_of_lt _ hin, List.getElem?_eq_getElem hin]
  · refine fun j hj => (beginTransmission_word (s := s.setSched rest) hw j).trans ?_
    rw [List.getElem?_eq_none (by rwa [length_bufferBytes])]
    rfl
  · rw [beginTransmission, length_bufferBytes]
    rfl

/-! ## The wait step (R196) -/

theorem fgTurn_write (hf : s.fg = .write inSend :: fs) : fgTurn s = waitStep inSend fs s := by
  simp [fgTurn, hf]

theorem waitStep_held (hb : s.phy.busState = .tx) : waitStep inSend fs s = .next { s with resp := .held } :=
  if_pos hb

/-- A `PKT.SEND` whose transmit callback the `PHY.WRITE` is returns the same `OK` (44_packet_framer R214). -/
theorem waitStep_returns (hb : s.phy.busState ≠ .tx) :
    waitStep inSend fs s = .next { s with fg := fs, resp := .status .ok } := by
  rw [waitStep, if_neg hb]
  cases inSend <;> rfl

/-- Settles O32, by whether the bus is in Tx. -/
theorem waitHoldsForegroundInTx : Obligations.WaitHoldsForegroundInTx := by
  intro s inSend fs rest he hsched hf
  have hturn : step s = waitStep inSend fs (s.setSched rest) :=
    (step_fgTurn he hsched).trans (fgTurn_write hf)
  rw [hturn]
  exact ⟨fun hb => waitStep_held hb, fun hb => waitStep_returns hb⟩

/-! ## A tick in Tx (R197 to R199) -/

/-- The machine after a drive tick. -/
def State.driveTick (s : State) : State :=
  ((s.setPhy (phyDrive s.phy)).noteDriven (nextTxBit s.phy)).respond (.status .ok)

/-- The machine after a read-back tick. -/
def State.readBackTick (s : State) : State := (s.setPhy (phyReadBack s.phy)).respond (.status .ok)

theorem exec_phyTick_tx (ha : s.instanceActive = true) (ht : s.phy.timerRunning = true)
    (hb : s.phy.busState = .tx) : exec (.phyTick l) s = thenRespond (.status .ok) (tickTx s) := by
  simp [exec, execPhyTick, withPhyInitialised_pass ha, ht, hb]

theorem exec_phyTick_drives (ha : s.instanceActive = true) (ht : s.phy.timerRunning = true)
    (hb : s.phy.busState = .tx) (hc : s.phy.collate = false) (hbyte : s.phy.txByteCur < s.params.txbufCap) :
    exec (.phyTick l) s = .next s.driveTick := by
  rw [exec_phyTick_tx ha ht hb, tickTx, if_neg (by simp [hc]), if_pos hbyte]
  rfl

theorem exec_phyTick_readsBack (ha : s.instanceActive = true) (ht : s.phy.timerRunning = true)
    (hb : s.phy.busState = .tx) (hc : s.phy.collate = true) :
    exec (.phyTick l) s = .next s.readBackTick := by
  rw [exec_phyTick_tx ha ht hb, tickTx, if_pos hc]
  rfl

theorem phyReadBack_nextBit (hbit : q.txBitCur.toNat < 21) :
    phyReadBack q = { q with collate := false, txBitCur := q.txBitCur + 1 } := if_pos hbit

theorem phyReadBack_nextByte (hbit : 21 ≤ q.txBitCur.toNat) (hbyte : q.txByteCur + 1 ≠ q.txLen) :
    phyReadBack q = { q with collate := false, txBitCur := 0, txByteCur := q.txByteCur + 1 } :=
  (if_neg hbit.not_gt).trans (if_neg hbyte)

theorem phyReadBack_end (hbit : 21 ≤ q.txBitCur.toNat) (hbyte : q.txByteCur + 1 = q.txLen) :
    phyReadBack q = phyToIdle { q with collate := false, txBitCur := 0, txByteCur := q.txByteCur + 1 } :=
  (if_neg hbit.not_gt).trans (if_pos hbyte)

theorem phyReadBack_din (q : Phy) : (phyReadBack q).din = q.din := by
  obtain ⟨-, h⟩ | ⟨-, -, h⟩ | ⟨-, -, h⟩ := phyReadBack_cases q <;> simp [h]

/-- Settles O33: the bit at the cursors is the one that `nextTxBit` names. -/
theorem txDriveTickDrivesBit : Obligations.TxDriveTickDrivesBit := by
  rintro s l _ ha ht hb hc hbyte rfl
  exact exec_phyTick_drives ha ht hb hc hbyte

/-- Settles O34, by where the cursors stand. -/
theorem txReadBackTickAdvances : Obligations.TxReadBackTickAdvances := by
  intro s l ha ht hb hc
  rw [exec_phyTick_readsBack ha ht hb hc, State.readBackTick]
  refine ⟨fun hbit => ?_, fun hbit hbyte => ?_, fun hbit hbyte => ?_⟩
  · rw [phyReadBack_nextBit hbit]; rfl
  · rw [phyReadBack_nextByte hbit.ge hbyte]; rfl
  · rw [phyReadBack_end hbit.ge hbyte]; rfl

/-! ## The levels read back (R201) -/

/-- A tick is one of a transmission, or is masked. -/
def TxOrMasked (s : State) : Prop := s.phy.busState = .tx ∨ s.phy.timerRunning = false

/-- Neither a tick of a transmission nor a masked one looks at its level. -/
theorem TxOrMasked.exec_phyTick_eq (h : TxOrMasked s) (l m : Bool) :
    exec (.phyTick l) s = exec (.phyTick m) s := by
  obtain h | h := h <;> simp [exec, execPhyTick, h]

/-- A transmission goes on until it stops the timer. -/
theorem TxOrMasked.readBack (hb : s.phy.busState = .tx) (r : Response) :
    TxOrMasked ((s.setPhy (phyReadBack s.phy)).respond r) := by
  obtain ⟨-, h⟩ | ⟨-, -, h⟩ | ⟨-, -, h⟩ := phyReadBack_cases s.phy <;> rw [h]
  · exact .inl hb
  · exact .inl hb
  · exact .inr rfl

theorem TxOrMasked.tick (h : TxOrMasked s) (hn : exec (.phyTick l) s = .next u) : TxOrMasked u := by
  obtain ⟨-, hn⟩ := withPhyInitialised_next hn
  split at hn
  · next ht => cases hn; exact .inr (by simpa using ht)
  · next ht =>
    have hb : s.phy.busState = .tx := h.resolve_right (by simpa using ht)
    simp only [hb] at hn
    obtain ⟨v, hv, rfl⟩ := thenRespond_cases hn
    obtain ⟨-, rfl⟩ | ⟨-, -, rfl⟩ := tickTx_cases hv
    · exact .readBack hb _
    · exact .inl hb

/-- Settles O35, by induction on the ticks: each answers the same for both levels, and the next is again one of the
transmission or masked. -/
theorem readBackLevelsHaveNoEffect : Obligations.ReadBackLevelsHaveNoEffect := by
  suffices h : ∀ (ls ms : List Bool) (s : State), TxOrMasked s → ls.length = ms.length →
      execAll (ls.map .phyTick) s = execAll (ms.map .phyTick) s from
    fun s ls ms hb hlen => h ls ms s (.inl hb) hlen
  intro ls
  induction ls with
  | nil =>
    intro ms s _ hlen
    rw [List.length_eq_zero_iff.1 hlen.symm]
  | cons l ls ih =>
    intro ms s hs hlen
    obtain ⟨m, ms, rfl⟩ := List.exists_cons_of_length_eq_add_one hlen.symm
    simp only [List.map_cons, execAll, hs.exec_phyTick_eq l m]
    cases hn : exec (.phyTick m) s with
    | next t => exact ih ms t (hs.tick hn) (Nat.succ.inj hlen)
    | fault | refused => rfl

/-! ## The samples of the frames sent (R200) -/

/-- Sample `k` of the frames of a byte string is sample `k % 22` of the frame of byte `k / 22`. -/
theorem getElem?_flatMap_wordSamples (bytes : List Byte) (k : Nat) :
    (bytes.flatMap fun b => wordSamples (formatByte b))[k]? =
      bytes[k / 22]?.map fun b => (formatByte b).getLsbD (k % 22) := by
  induction bytes generalizing k with
  | nil => simp
  | cons b bs ih =>
    have hlen : (wordSamples (formatByte b)).length = 22 := by simp [wordSamples]
    rw [List.flatMap_cons]
    rcases Nat.lt_or_ge k 22 with hk | hk
    · rw [List.getElem?_append_left (by omega), Nat.div_eq_of_lt hk, Nat.mod_eq_of_lt hk]
      simp [wordSamples, hk]
    · obtain ⟨j, rfl⟩ := Nat.exists_eq_add_of_le' hk
      rw [List.getElem?_append_right (by omega), hlen, Nat.add_sub_cancel, ih,
        Nat.add_div_right j (by omega), Nat.add_mod_right, List.getElem?_cons_succ]

/-- The first `len` words of the transmit buffer hold the samples `frames`, 22 each. -/
def HoldsFrames (frames : List Bool) (len : Nat) (c : Cells 32) : Prop :=
  ∀ k, k < 22 * len → frames[k]? = some ((cellRead c (k / 22)).getLsbD (k % 22))

/-- The begin step stores the frames of the bytes. -/
theorem beginTransmission_holdsFrames (hw : cellsWf s.phy.txbuf = true) (bytes : List Byte) :
    HoldsFrames (bytes.flatMap fun b => wordSamples (formatByte b)) bytes.length
      (beginTransmission bytes s).phy.txbuf := by
  intro k hk
  have hbyte : k / 22 < bytes.length := by omega
  rw [getElem?_flatMap_wordSamples, beginTransmission_word hw, List.getElem?_eq_getElem hbyte]
  rfl

/-! ## A transmission, tick by tick (R200) -/

/-- A transmission of `len` bytes after `n` of its `44 * len` ticks, with ticks remaining: two ticks a sample, 22 samples
a byte. -/
structure Sending (len n : Nat) (s : State) : Prop where
  active : s.instanceActive = true
  timer : s.phy.timerRunning = true
  bus : s.phy.busState = .tx
  length : s.phy.txLen = len
  fits : len ≤ s.params.txbufCap
  more : n < 44 * len
  byte : s.phy.txByteCur = n / 2 / 22
  bit : s.phy.txBitCur.toNat = n / 2 % 22
  phase : s.phy.collate = decide (n % 2 = 1)

/-- The orchestrator after the last tick of a transmission (R199). -/
structure TxEnded (q : Phy) : Prop where
  bus : q.busState = .idle
  timer : q.timerRunning = false
  edge : q.edgeIrqEnabled = true
  phase : q.collate = false

theorem Sending.collate_eq_false (h : Sending len n s) (heven : n % 2 = 0) : s.phy.collate = false := by
  simp [h.phase, heven]

theorem Sending.collate_eq_true (h : Sending len n s) (hodd : n % 2 = 1) : s.phy.collate = true := by
  simp [h.phase, hodd]

theorem Sending.exec_drive (h : Sending len n s) (heven : n % 2 = 0) (l : Bool) :
    exec (.phyTick l) s = .next s.driveTick := by
  have hbyte : s.phy.txByteCur < s.params.txbufCap := by
    calc
      s.phy.txByteCur = n / 2 / 22 := h.byte
      _ < len := by have hmore := h.more; omega
      _ ≤ s.params.txbufCap := h.fits
  exact exec_phyTick_drives h.active h.timer h.bus (h.collate_eq_false heven) hbyte

theorem Sending.exec_readBack (h : Sending len n s) (hodd : n % 2 = 1) (l : Bool) :
    exec (.phyTick l) s = .next s.readBackTick :=
  exec_phyTick_readsBack h.active h.timer h.bus (h.collate_eq_true hodd)

theorem Sending.drive (h : Sending len n s) (heven : n % 2 = 0) : Sending len (n + 1) s.driveTick :=
  { h with
    more := by have hmore := h.more; omega
    byte := h.byte.trans (by omega)
    bit := h.bit.trans (by omega)
    phase := by
      have hodd : (n + 1) % 2 = 1 := by omega
      simp [hodd, State.driveTick] }

/-- A read-back tick that is not the last moves the cursors on to the next sample. -/
theorem Sending.readBack (h : Sending len n s) (hodd : n % 2 = 1) (hmore : n + 1 < 44 * len) :
    Sending len (n + 1) s.readBackTick := by
  have hphase : false = decide ((n + 1) % 2 = 1) := by
    have heven : (n + 1) % 2 = 0 := by omega
    simp [heven]
  have hbit := h.bit
  have hbyte := h.byte
  rw [State.readBackTick]
  by_cases hlt : n / 2 % 22 < 21
  · rw [phyReadBack_nextBit (by omega)]
    have hnext : (s.phy.txBitCur + 1).toNat = s.phy.txBitCur.toNat + 1 := by bv_omega
    exact { h with
      more := hmore
      byte := hbyte.trans (by omega)
      bit := hnext.trans (by omega)
      phase := hphase }
  · have hnotLast : s.phy.txByteCur + 1 ≠ s.phy.txLen := by rw [h.length]; omega
    rw [phyReadBack_nextByte (by omega) hnotLast]
    exact { h with
      more := hmore
      byte := (congrArg (· + 1) hbyte).trans (by omega)
      bit := by
        have hfirst : (n + 1) / 2 % 22 = 0 := by omega
        rw [hfirst]
        rfl
      phase := hphase }

/-- The last read-back tick ends the transmission. -/
theorem Sending.readBack_last (h : Sending len n s) (hlast : n + 1 = 44 * len) :
    TxEnded s.readBackTick.phy := by
  have hbit := h.bit
  have hbyte := h.byte
  have hend : s.phy.txByteCur + 1 = s.phy.txLen := by rw [h.length]; omega
  rw [State.readBackTick, phyReadBack_end (by omega) hend]
  exact ⟨rfl, rfl, rfl, rfl⟩

/-- `n` ticks of a transmission of the samples `frames`, `len` bytes of 22 samples, lead from the begin `u` to `s`: the
levels driven, the level on the line, where the transmission stands, and what it leaves alone. -/
structure SentSoFar (frames : List Bool) (len : Nat) (u : State) (n : Nat) (s : State) : Prop where
  holds : HoldsFrames frames len s.phy.txbuf
  driven : s.driven = u.driven ++ frames.take ((n + 1) / 2)
  line : 1 ≤ n → frames[(n - 1) / 2]? = some s.phy.din
  sending : n < 44 * len → Sending len n s
  ended : n = 44 * len → TxEnded s.phy
  dec : s.dec = u.dec
  fg : s.fg = u.fg

/-- The bit at the cursors is the next sample of the frames. -/
theorem SentSoFar.nextTxBit_eq (h : SentSoFar frames len u n s) (hn : n < 44 * len) :
    frames[n / 2]? = some (nextTxBit s.phy) := by
  rw [h.holds (n / 2) (by omega), nextTxBit, (h.sending hn).byte, (h.sending hn).bit]

theorem SentSoFar.drive (h : SentSoFar frames len u n s) (hn : n < 44 * len) (heven : n % 2 = 0) :
    SentSoFar frames len u (n + 1) s.driveTick :=
  have hnext := (h.sending hn).drive heven
  { holds := h.holds
    driven := by
      have hbefore : (n + 1) / 2 = n / 2 := by omega
      have hafter : (n + 1 + 1) / 2 = n / 2 + 1 := by omega
      simp only [State.driveTick, respond_driven, noteDriven_driven, setPhy_driven]
      rw [h.driven, hbefore, hafter, List.take_add_one, h.nextTxBit_eq hn, Option.toList_some, List.append_assoc]
    line := fun _ => h.nextTxBit_eq hn
    sending := fun _ => hnext
    ended := fun hlast => absurd hlast hnext.more.ne
    dec := h.dec
    fg := h.fg }

theorem SentSoFar.readBack (h : SentSoFar frames len u n s) (hn : n < 44 * len) (hodd : n % 2 = 1) :
    SentSoFar frames len u (n + 1) s.readBackTick where
  holds := by
    rw [State.readBackTick, respond_phy, setPhy_phy, phyReadBack_txbuf]
    exact h.holds
  driven := by
    have hsame : (n + 1 + 1) / 2 = (n + 1) / 2 := by omega
    rw [hsame]
    exact h.driven
  line _ := by
    have hsame : (n + 1 - 1) / 2 = (n - 1) / 2 := by omega
    rw [hsame, h.line (by omega), State.readBackTick, respond_phy, setPhy_phy, phyReadBack_din]
  sending hmore := (h.sending hn).readBack hodd hmore
  ended hlast := (h.sending hn).readBack_last hlast
  dec := h.dec
  fg := h.fg

/-- A tick of a transmission, whatever its level: a drive tick or a read-back tick, in turn. -/
theorem SentSoFar.tick (h : SentSoFar frames len u n s) (hn : n < 44 * len) (l : Bool) :
    ∃ t, exec (.phyTick l) s = .next t ∧ SentSoFar frames len u (n + 1) t := by
  rcases Nat.mod_two_eq_zero_or_one n with heven | hodd
  · exact ⟨_, (h.sending hn).exec_drive heven l, h.drive hn heven⟩
  · exact ⟨_, (h.sending hn).exec_readBack hodd l, h.readBack hn hodd⟩

/-- Ticks of a transmission, by induction on them. -/
theorem SentSoFar.execAll_ticks (h : SentSoFar frames len u n s) (ls : List Bool)
    (hlen : n + ls.length ≤ 44 * len) :
    ∃ t, execAll (ls.map .phyTick) s = .next t ∧ SentSoFar frames len u (n + ls.length) t := by
  induction ls generalizing n s with
  | nil => exact ⟨s, rfl, h⟩
  | cons l ls ih =>
    rw [List.length_cons] at hlen ⊢
    obtain ⟨v, hv, hsent⟩ := h.tick (by omega) l
    obtain ⟨t, ht, hdone⟩ := ih hsent (by omega)
    exact ⟨t, (execAll_cons_next hv).trans ht, by rwa [Nat.add_assoc, Nat.add_comm 1] at hdone⟩

/-- The machine after the begin step of a `PHY.WRITE` of a program. -/
def State.begun (bytes : List Byte) (s : State) : State :=
  ((beginTransmission bytes s).setFg (.write false :: s.fg)).respond .inProgress

/-- The check and the begin of a `PHY.WRITE` that has something to send, in Idle (R193, R194). -/
theorem write_begins (ha : s.instanceActive = true) (hb : s.phy.busState = .idle) (hpos : 0 < bytes.length)
    (hlen : bytes.length ≤ s.params.txbufCap) :
    ∃ v, exec (.phyWrite (some bytes) bytes.length) s = .next v ∧ fgTurn v = .next (s.begun bytes) := by
  refine ⟨_, exec_phyWrite_begins ha hpos hlen (Option.some_ne_none bytes) hb, ?_⟩
  refine (fgTurn_writeBegin rfl).trans ((writeBegin_idle hb hpos hlen).trans ?_)
  rw [bufferBytes_self]
  rfl

/-- A transmission that has begun has driven nothing yet. -/
theorem sentSoFar_begun (ha : s.instanceActive = true) (hw : cellsWf s.phy.txbuf = true)
    (hpos : 0 < bytes.length) (hlen : bytes.length ≤ s.params.txbufCap) :
    SentSoFar (bytes.flatMap fun b => wordSamples (formatByte b)) bytes.length (s.begun bytes) 0
      (s.begun bytes) where
  holds := beginTransmission_holdsFrames hw bytes
  driven := (List.append_nil _).symm
  line h := absurd h (by omega)
  sending hmore :=
    { active := ha
      timer := rfl
      bus := rfl
      length := rfl
      fits := hlen
      more := hmore
      byte := rfl
      bit := rfl
      phase := rfl }
  ended h := absurd h (by omega)
  dec := rfl
  fg := rfl

/-- The last sample of the frames of a byte string is the stop stuffing bit of its last byte (R202). -/
theorem getElem?_frames_last (hpos : 0 < bytes.length) :
    (bytes.flatMap fun b => wordSamples (formatByte b))[(44 * bytes.length - 1) / 2]? = some true := by
  have hbyte : (44 * bytes.length - 1) / 2 / 22 < bytes.length := by omega
  have hbit : (44 * bytes.length - 1) / 2 % 22 = 21 := by omega
  rw [getElem?_flatMap_wordSamples, List.getElem?_eq_getElem hbyte, Option.map_some, hbit, formatByte_last]

/-- Settles O36: the write begins the transmission of its frames, and each tick carries it on; with the bus back in Idle
the wait returns. -/
theorem writeShiftsOutEveryFrame : Obligations.WriteShiftsOutEveryFrame := by
  intro s bytes ha hb hne hlen hw
  have hpos : 0 < bytes.length := List.length_pos_iff.2 hne
  obtain ⟨v, hcheck, hbegin⟩ := write_begins ha hb hpos hlen
  refine ⟨v, s.begun bytes, hcheck, hbegin, fun ls hticks => ?_⟩
  obtain ⟨t, hrun, hsent⟩ := (sentSoFar_begun ha hw hpos hlen).execAll_ticks ls (by omega)
  rw [Nat.zero_add] at hsent
  refine ⟨t, hrun, hsent.driven, hsent.line, fun hmore => ?_, fun hall => ?_⟩
  · exact ⟨(hsent.sending hmore).bus, (hsent.sending hmore).phase⟩
  · obtain ⟨hidle, htimer, hedge, hphase⟩ := hsent.ended hall
    have hhigh : t.phy.din = true := by
      have hline := hsent.line (by omega)
      rw [hall, getElem?_frames_last hpos] at hline
      exact (Option.some.inj hline).symm
    have hreturn : fgTurn t = .next { t with fg := s.fg, resp := .status .ok } :=
      (fgTurn_write hsent.fg).trans (waitStep_returns (by simp [hidle]))
    exact ⟨hidle, htimer, hedge, hphase, hhigh, hsent.dec, hreturn⟩

end Sys2Proof.Machine
end

section
/-! # The packet framer (spec/44_packet_framer.md R210 to R216)

A byte that is taken leads to `framerGoesOn` or to `deliver`, and both write the framer of one stack, so that of two
bytes the second alone is seen: the bytes of a packet together are one delivery of the framer that holds the packet
(`execAll_packetBytes`). What `PKT.SEND` hands to its callback are such bytes. -/

namespace Sys2Proof.Machine

variable {s t : State} {n len : Nat} {k k' : Framer} {b : Byte} {data : Option (List Byte)}
  {fs : List FgFrame} {rest : List Agent} {ins : List Input}

/-! ## One stack written (R210) -/

theorem onlyStack_of_framers (h : t.framers = framerPut n k s.framers) : onlyStack n k s t := by
  have hget (m : Nat) : t.framer m = if m = n then k else s.framer m := by
    rw [State.framer, h, framerPut_get]
    rfl
  exact ⟨by simp [hget], fun m hm => by simp [hget, hm]⟩

theorem framerPut_framerPut (n : Nat) (k k' : Framer) (ks : List Framer) :
    framerPut n k' (framerPut n k ks) = framerPut n k' ks := by
  induction n generalizing ks with
  | zero => cases ks <;> rfl
  | succ n ih => cases ks <;> simp [framerPut, ih]

/-- Settles O38: the stack of the handle is the one framer put. -/
theorem pktInitConstructs : Obligations.PktInitConstructs :=
  fun _ _ _ _ _ _ => ⟨_, rfl, rfl, onlyStack_of_framers rfl⟩

/-! ## One byte (R211, R212) -/

/-- A stack that takes bytes: constructed, and the foreground outside its receive callback. -/
structure TakesBytes (n : Nat) (s : State) : Prop where
  constructed : (s.framer n).constructed = true
  outside : FgFrame.recvCb n ∉ s.fg

/-- The framer with a byte stored at the counter, in WaitData. -/
def Framer.store (b : Byte) (k : Framer) : Framer :=
  { k with pktData := cellWrite k.dataCnt.toNat b k.pktData, dataCnt := k.dataCnt + 1 }

theorem exec_pktRxbyte (hs : TakesBytes n s) : exec (.pktRxbyte ⟨n, b⟩) s = framerTake n b s :=
  (withFramer_pass hs.constructed _).trans (if_neg hs.outside)

theorem framerTake_waitSelf (hk : s.framer n = k) (hr : k.rxState = .waitSelf) :
    framerTake n b s = .next (framerGoesOn n { k with pktSelf := b, rxState := .waitDest } s) := by
  simp only [framerTake, hk, hr]

theorem framerTake_waitDest (hk : s.framer n = k) (hr : k.rxState = .waitDest) :
    framerTake n b s = .next (framerGoesOn n { k with pktDest := b, rxState := .waitOp } s) := by
  simp only [framerTake, hk, hr]

theorem framerTake_waitOp (hk : s.framer n = k) (hr : k.rxState = .waitOp) :
    framerTake n b s = .next (framerGoesOn n { k with pktOperation := b, rxState := .waitLen } s) := by
  simp only [framerTake, hk, hr]

theorem framerTake_waitLen_pos (hk : s.framer n = k) (hr : k.rxState = .waitLen) (hb : b ≠ 0) :
    framerTake n b s =
      .next (framerGoesOn n { k with pktLen := b, dataCnt := 0, rxState := .waitData } s) := by
  simp only [framerTake, hk, hr, if_neg hb]

theorem framerTake_waitLen_zero (hk : s.framer n = k) (hr : k.rxState = .waitLen) :
    framerTake n 0 s = .next (deliver n { k with pktLen := 0, dataCnt := 0, rxState := .waitSelf } s) := by
  simp only [framerTake, hk, hr, if_true]

/-- Below the length announced the counter has not come to the end of the payload array. -/
theorem dataCnt_lt_maxPayload (hlt : k.dataCnt.toNat < k.pktLen.toNat) :
    k.dataCnt.toNat < Config.maxPayload := by
  have hlen := k.pktLen.isLt
  rw [Config.maxPayload]
  omega

theorem framerTake_waitData_more (hk : s.framer n = k) (hr : k.rxState = .waitData)
    (hlt : k.dataCnt.toNat + 1 < k.pktLen.toNat) :
    framerTake n b s = .next (framerGoesOn n (k.store b) s) := by
  have hroom := dataCnt_lt_maxPayload (Nat.lt_of_succ_lt hlt)
  have hmore : k.dataCnt + 1 ≠ k.pktLen := by bv_omega
  simp only [framerTake, hk, hr, if_pos hroom, if_neg hmore, Framer.store]

theorem framerTake_waitData_last (hk : s.framer n = k) (hr : k.rxState = .waitData)
    (hlast : k.dataCnt.toNat + 1 = k.pktLen.toNat) :
    framerTake n b s = .next (deliver n { k.store b with rxState := .waitSelf } s) := by
  have hroom := dataCnt_lt_maxPayload (Nat.lt_of_succ_le hlast.le)
  have hend : k.dataCnt + 1 = k.pktLen := by bv_omega
  simp only [framerTake, hk, hr, if_pos hroom, if_pos hend, Framer.store]

/-- A byte that completes no packet writes the framer and answers `OK`. -/
theorem rxbyte_goesOn (hs : TakesBytes n s) (h : framerTake n b s = .next (framerGoesOn n k s)) :
    ∃ t, exec (.pktRxbyte ⟨n, b⟩) s = .next t ∧
      t = { s with framers := t.framers, resp := .status .ok } ∧ onlyStack n k s t :=
  ⟨_, (exec_pktRxbyte hs).trans h, rfl, onlyStack_of_framers rfl⟩

/-- Settles O39, by the states of the receive machine. -/
theorem rxbyteAdvancesReceiveMachine : Obligations.RxbyteAdvancesReceiveMachine := by
  intro s n b hc hfg
  have hs : TakesBytes n s := ⟨hc, hfg⟩
  refine ⟨fun hr => rxbyte_goesOn hs (framerTake_waitSelf rfl hr),
    fun hr => rxbyte_goesOn hs (framerTake_waitDest rfl hr), fun hr => rxbyte_goesOn hs (framerTake_waitOp rfl hr),
    fun hr hb => rxbyte_goesOn hs (framerTake_waitLen_pos rfl hr hb), fun hr hw hlt => ?_⟩
  obtain ⟨t, hexec, hframe, hstack, hothers⟩ := rxbyte_goesOn hs (framerTake_waitData_more (b := b) rfl hr hlt)
  refine ⟨t, hexec, hframe, ⟨by rw [hstack]; rfl, hothers⟩, fun a => ?_⟩
  rw [hstack, Framer.store, cellRead_cellWrite hw]
  simp only [eq_comm]

/-! ## Delivery (R213) -/

/-- What the delivery of the packet in `k`, the framer to be of stack `n`, does: the callback is entered with it or it
is counted, and nothing else changes. -/
structure Delivered (n : Nat) (k : Framer) (s t : State) : Prop where
  stack : onlyStack n { k with unhandledCnt := (t.framer n).unhandledCnt } s t
  called : ∀ cb, k.rxCb = some cb → k.pktDest = k.ownAddr →
    t = { s with
      framers := t.framers
      rxCalls := s.rxCalls ++ [⟨cb, n, framerPacket k⟩]
      fg := .recvCb n :: s.fg
      resp := .inProgress } ∧
    (t.framer n).unhandledCnt = k.unhandledCnt
  counted : k.rxCb = none ∨ k.pktDest ≠ k.ownAddr →
    t = { s with framers := t.framers, resp := .status .ok } ∧
    (t.framer n).unhandledCnt = k.unhandledCnt + 1

theorem Delivered.pktData (h : Delivered n k s t) : (t.framer n).pktData = k.pktData := by
  rw [h.stack.1]

theorem deliver_delivered (n : Nat) (k : Framer) (s : State) : Delivered n k s (deliver n k s) := by
  obtain ⟨cb, hcb, hdest, ht⟩ | ⟨hnot, ht⟩ := deliver_cases (s := s) (n := n) (k := k) rfl
  · have hstack : onlyStack n k s (deliver n k s) := onlyStack_of_framers (by rw [ht]; rfl)
    refine ⟨by rwa [hstack.1], fun cb' hcb' _ => ⟨?_, by rw [hstack.1]⟩, fun hnot => ?_⟩
    · obtain rfl := Option.some.inj (hcb.symm.trans hcb')
      rw [ht]
      rfl
    · exact absurd hnot (by simp [hcb, hdest])
  · have hstack : onlyStack n { k with unhandledCnt := k.unhandledCnt + 1 } s (deliver n k s) :=
      onlyStack_of_framers (by rw [ht]; rfl)
    refine ⟨by rwa [hstack.1], fun cb hcb hdest => ?_, fun _ => ⟨?_, by rw [hstack.1]⟩⟩
    · exact absurd hnot (by simp [hcb, hdest])
    · rw [ht]
      rfl

/-- A byte written behind the first `d` is read behind them. -/
theorem cellReadAll_cellWrite_end {w : Nat} {c : Cells w} (hw : cellsWf c = true) (d : Nat) (v : BitVec w) :
    cellReadAll (cellWrite d v c) 0 (d + 1) = cellReadAll c 0 d ++ [v] := by
  have hbefore : ∀ j ∈ List.range d, cellRead (cellWrite d v c) (0 + j) = cellRead c (0 + j) := fun j hj => by
    have hlt := List.mem_range.1 hj
    rw [cellRead_cellWrite hw, if_neg (by omega)]
  rw [cellReadAll, List.range_succ, List.map_append, List.map_congr_left hbefore, List.map_singleton,
    cellRead_cellWrite hw, if_pos (Nat.zero_add d).symm, cellReadAll]

/-- The framer that has completed packet `p`, with `cells` as its payload array (R212). -/
def Framer.completed (p : Packet) (cells : List Host.Cell) (k : Framer) : Framer :=
  { k with
    rxState := .waitSelf
    pktLen := p.len
    pktData := cells
    dataCnt := BitVec.ofNat 8 p.data.length }

/-- The byte that completes packet `p` delivers the framer that holds `p`. -/
theorem exec_pktRxbyte_completes {p : Packet} (hs : TakesBytes n s) (hw : cellsWf (s.framer n).pktData = true)
    (hself : p.selfAddr = (s.framer n).pktSelf) (hdest : p.destAddr = (s.framer n).pktDest)
    (hop : p.operation = (s.framer n).pktOperation)
    (hlast : (s.framer n).rxState = .waitLen ∧ b = 0 ∧ p.len = 0 ∧ p.data = [] ∨
      (s.framer n).rxState = .waitData ∧
        (s.framer n).dataCnt.toNat + 1 = (s.framer n).pktLen.toNat ∧ p.len = (s.framer n).pktLen ∧
        p.data = cellReadAll (s.framer n).pktData 0 (s.framer n).dataCnt.toNat ++ [b]) :
    ∃ cells, exec (.pktRxbyte ⟨n, b⟩) s = .next (deliver n ((s.framer n).completed p cells) s) ∧
      framerPacket ((s.framer n).completed p cells) = p ∧
      ∀ a, cellRead cells a =
        if (s.framer n).rxState = .waitData ∧ a = (s.framer n).dataCnt.toNat then b
        else cellRead (s.framer n).pktData a := by
  rw [exec_pktRxbyte hs]
  obtain ⟨selfAddr, destAddr, operation, len, data⟩ := p
  dsimp only at hself hdest hop hlast ⊢
  subst hself hdest hop
  obtain ⟨hr, rfl, rfl, rfl⟩ | ⟨hr, hcnt, rfl, rfl⟩ := hlast
  · exact ⟨_, framerTake_waitLen_zero rfl hr, rfl, fun a => by simp [hr]⟩
  · refine ⟨cellWrite (s.framer n).dataCnt.toNat b (s.framer n).pktData, ?_, ?_, fun a => ?_⟩
    · rw [framerTake_waitData_last rfl hr hcnt, Framer.completed, Framer.store]
      simp [cellReadAll, BitVec.ofNat_add]
    · simp only [framerPacket, Framer.completed, ← hcnt, cellReadAll_cellWrite_end hw]
    · simp only [cellRead_cellWrite hw, hr, true_and, eq_comm]

/-- Settles O40: the delivery of the framer that holds the packet. -/
theorem lastByteDeliversPacket : Obligations.LastByteDeliversPacket := by
  intro s n b p hc hfg hw hself hdest hop hlast
  obtain ⟨cells, hexec, hp, hcells⟩ := exec_pktRxbyte_completes ⟨hc, hfg⟩ hw hself hdest hop hlast
  have hdelivered := deliver_delivered n ((s.framer n).completed p cells) s
  have hdata : (State.framer _ n).pktData = cells := hdelivered.pktData
  obtain ⟨⟨hstack, hothers⟩, hcalled, hcounted⟩ := hdelivered
  rw [hp] at hcalled
  refine ⟨_, hexec, ⟨?_, hothers⟩, by rwa [hdata], ?_, ?_⟩
  · rw [hdata]
    exact hstack
  · rw [hdest]
    exact hcalled
  · rw [hdest]
    exact hcounted

/-! ## The bytes of a packet (R216) -/

theorem framerGoesOn_goesOn (n : Nat) (k k' : Framer) (s : State) :
    framerGoesOn n k' (framerGoesOn n k s) = framerGoesOn n k' s := by
  simp only [framerGoesOn, State.setFramer, State.respond, framerPut_framerPut]

theorem deliver_goesOn (n : Nat) (k k' : Framer) (s : State) :
    deliver n k' (framerGoesOn n k s) = deliver n k' s := by
  simp only [deliver, countUnhandled, framerGoesOn, State.setFramer, State.respond, State.noteRxCall, State.setFg,
    framerPut_framerPut]

@[simp] theorem framerGoesOn_framer (n : Nat) (k : Framer) (s : State) : (framerGoesOn n k s).framer n = k := by
  simp [framerGoesOn]

theorem TakesBytes.goesOn (hs : TakesBytes n s) (hk : k.constructed = true) :
    TakesBytes n (framerGoesOn n k s) := ⟨by simpa using hk, hs.outside⟩

theorem execAll_goesOn {is : List Instr} (hs : TakesBytes n s) (hk : k.constructed = true)
    (h : framerTake n b (framerGoesOn n k s) = .next (framerGoesOn n k' (framerGoesOn n k s))) :
    execAll (.pktRxbyte ⟨n, b⟩ :: is) (framerGoesOn n k s) = execAll is (framerGoesOn n k' s) := by
  rw [execAll_cons_next ((exec_pktRxbyte (hs.goesOn hk)).trans h), framerGoesOn_goesOn]

theorem execAll_goesOn_deliver (hs : TakesBytes n s) (hk : k.constructed = true)
    (h : framerTake n b (framerGoesOn n k s) = .next (deliver n k' (framerGoesOn n k s))) :
    execAll [.pktRxbyte ⟨n, b⟩] (framerGoesOn n k s) = .next (deliver n k' s) := by
  rw [execAll_singleton, exec_pktRxbyte (hs.goesOn hk), h, deliver_goesOn]

/-- The payload still to come, in WaitData: each byte is stored behind the one before, and the last one delivers. -/
theorem execAll_payload (hs : TakesBytes n s) (hk : k.constructed = true) (hr : k.rxState = .waitData)
    (b : Byte) (bs : List Byte) (hlen : k.dataCnt.toNat + (bs.length + 1) = k.pktLen.toNat) :
    execAll ((b :: bs).map fun c => .pktRxbyte ⟨n, c⟩) (framerGoesOn n k s) =
      .next (deliver n
        { k with
          rxState := .waitSelf
          pktData := cellWriteAll k.dataCnt.toNat (b :: bs) k.pktData
          dataCnt := k.pktLen } s) := by
  induction bs generalizing b k with
  | nil =>
    have hend : k.dataCnt + 1 = k.pktLen := by
      rw [List.length_nil] at hlen
      bv_omega
    refine (execAll_goesOn_deliver hs hk (framerTake_waitData_last (framerGoesOn_framer ..) hr hlen)).trans ?_
    simp only [Framer.store, hend, cellWriteAll]
  | cons c bs ih =>
    rw [List.length_cons] at hlen
    have hcnt : (k.dataCnt + 1).toNat = k.dataCnt.toNat + 1 := by bv_omega
    have hlen' : (k.store b).dataCnt.toNat + (bs.length + 1) = (k.store b).pktLen.toNat := by
      show (k.dataCnt + 1).toNat + (bs.length + 1) = k.pktLen.toNat
      omega
    rw [List.map_cons, execAll_goesOn hs hk
      (framerTake_waitData_more (framerGoesOn_framer ..) hr (by omega)), ih (k := k.store b) hk hr c hlen']
    simp only [Framer.store, hcnt, cellWriteAll]

/-- The framer that holds a packet. -/
def Framer.withPacket (src dest opcode : Byte) (payload : List Byte) (k : Framer) : Framer :=
  { k with
    pktSelf := src
    pktDest := dest
    pktOperation := opcode
    pktLen := BitVec.ofNat 8 payload.length
    pktData := cellWriteAll 0 payload k.pktData
    dataCnt := BitVec.ofNat 8 payload.length }

theorem toNat_ofNat_length {payload : List Byte} (hlen : payload.length ≤ 255) :
    (BitVec.ofNat 8 payload.length).toNat = payload.length := by
  rw [BitVec.toNat_ofNat]
  omega

theorem framerPacket_withPacket {src dest opcode : Byte} {payload : List Byte} (hw : cellsWf k.pktData = true)
    (hlen : payload.length ≤ 255) :
    framerPacket (k.withPacket src dest opcode payload) =
      ⟨src, dest, opcode, BitVec.ofNat 8 payload.length, payload⟩ := by
  simp only [framerPacket, Framer.withPacket, toNat_ofNat_length hlen, cellReadAll_cellWriteAll hw]

/-- The bytes of a packet, fed to a stack in WaitSelf, are one delivery of the framer that holds the packet. -/
theorem execAll_packetBytes (hs : TakesBytes n s) (hr : (s.framer n).rxState = .waitSelf)
    (src dest opcode : Byte) {payload : List Byte} (hlen : payload.length ≤ 255) :
    execAll
        (([src, dest, opcode, BitVec.ofNat 8 payload.length] ++ payload).map fun b => .pktRxbyte ⟨n, b⟩) s =
      .next (deliver n ((s.framer n).withPacket src dest opcode payload) s) := by
  have hself : (s.framer n).withPacket src dest opcode payload =
      { (s.framer n).withPacket src dest opcode payload with rxState := .waitSelf } := by
    rw [← hr]
    rfl
  rw [hself]
  simp only [List.cons_append, List.nil_append, List.map_cons]
  refine (execAll_cons_next ((exec_pktRxbyte hs).trans (framerTake_waitSelf rfl hr))).trans ?_
  refine Eq.trans (execAll_goesOn hs hs.constructed (framerTake_waitDest (framerGoesOn_framer ..) rfl)) ?_
  refine Eq.trans (execAll_goesOn hs hs.constructed (framerTake_waitOp (framerGoesOn_framer ..) rfl)) ?_
  cases payload with
  | nil =>
    exact Eq.trans (execAll_goesOn_deliver hs hs.constructed
      (framerTake_waitLen_zero (framerGoesOn_framer ..) rfl)) rfl
  | cons b bs =>
    have hcnt := toNat_ofNat_length hlen
    have hpos : BitVec.ofNat 8 (b :: bs).length ≠ 0 := fun h => by
      rw [h, List.length_cons] at hcnt
      exact absurd hcnt (Nat.succ_ne_zero _).symm
    refine Eq.trans (execAll_goesOn hs hs.constructed
      (framerTake_waitLen_pos (framerGoesOn_framer ..) rfl hpos)) ?_
    refine Eq.trans (execAll_payload hs ?_ ?_ b bs ?_) rfl
    · exact hs.constructed
    · rfl
    · exact (Nat.zero_add _).trans hcnt.symm

/-- Settles O44: the one delivery of the packet, to this address or to another. -/
theorem packetBytesDeliverOnce : Obligations.PacketBytesDeliverOnce := by
  intro s n src dest opcode payload cb hc hfg hw hr hcb hlen
  have hdelivered := deliver_delivered n ((s.framer n).withPacket src dest opcode payload) s
  have hdata : (State.framer _ n).pktData = cellWriteAll 0 payload (s.framer n).pktData := hdelivered.pktData
  obtain ⟨⟨hstack, hothers⟩, hcalled, hcounted⟩ := hdelivered
  rw [framerPacket_withPacket hw hlen] at hcalled
  refine ⟨_, execAll_packetBytes ⟨hc, hfg⟩ hr src dest opcode hlen, ⟨?_, hothers⟩, fun a ha => ?_,
    hcalled cb hcb, fun hd => hcounted (.inr hd)⟩
  · rw [hdata]
    exact hstack
  · rw [hdata]
    exact cellRead_cellWriteAll_outside hw (.inr (by omega))

/-! ## `PKT.SEND` (R214) -/

/-- The bytes of the caller's buffer are those given, as far as they go. -/
theorem getElem?_bufferBytes_given (draw : Nat) {j : Nat} (hj : j < len) (hin : j < (data.getD []).length) :
    (bufferBytes draw data len)[j]? = (data.getD [])[j]? := by
  rw [getElem?_bufferBytes draw data hj, bufferByte, List.getElem?_eq_getElem hin]

/-- The call of the transmit callback that a `PKT.SEND` makes, and what the foreground is inside of then. -/
def State.sent (call : TxCall) (f : FgFrame) (s : State) : State :=
  ((s.drawFree.noteTxCall call).setFg (f :: s.fg)).respond .inProgress

section
variable {dest opcode len : Byte}

theorem exec_pktSend_missing (hc : (s.framer n).constructed = true) (hlen : 0 < len.toNat) :
    exec (.pktSend ⟨n, dest⟩ opcode none len) s = .next { s with resp := .status .badParam } :=
  (withFramer_pass hc _).trans (if_pos (bufferMissing_eq_true hlen))

theorem exec_pktSend_absent (hc : (s.framer n).constructed = true) (hcb : (s.framer n).txCb = .absent)
    (hdata : len.toNat = 0 ∨ data ≠ none) :
    exec (.pktSend ⟨n, dest⟩ opcode data len) s = .next { s with resp := .status .txUnregistered } := by
  refine (withFramer_pass hc _).trans ?_
  simp only [bufferMissing_eq_false hdata, hcb]
  rfl

theorem exec_pktSend_user {h : Nat} (hc : (s.framer n).constructed = true) (hcb : (s.framer n).txCb = .user h)
    (hdata : len.toNat = 0 ∨ data ≠ none) :
    exec (.pktSend ⟨n, dest⟩ opcode data len) s =
      .next (s.sent ⟨.user h, [(s.framer n).ownAddr, dest, opcode, len] ++ bufferBytes s.freeCtr data len.toNat,
        4 + len.toNat, (s.framer n).txOpaque⟩ .sendCb) := by
  refine (withFramer_pass hc _).trans ?_
  simp only [bufferMissing_eq_false hdata, hcb]
  rfl

theorem exec_pktSend_phyWrite (hc : (s.framer n).constructed = true) (hcb : (s.framer n).txCb = .phyWrite)
    (hdata : len.toNat = 0 ∨ data ≠ none) :
    exec (.pktSend ⟨n, dest⟩ opcode data len) s =
      .next (s.sent ⟨.phyWrite, [(s.framer n).ownAddr, dest, opcode, len] ++ bufferBytes s.freeCtr data len.toNat,
          4 + len.toNat, (s.framer n).txOpaque⟩
        (.writeCheck (some ([(s.framer n).ownAddr, dest, opcode, len] ++ bufferBytes s.freeCtr data len.toNat))
          (4 + len.toNat))) := by
  refine (withFramer_pass hc _).trans ?_
  simp only [bufferMissing_eq_false hdata, hcb]
  rfl

end

/-- Settles O42, check by check in the order of R214. -/
theorem sendSerialisesIntoOneCall : Obligations.SendSerialisesIntoOneCall := by
  refine fun s n dest opcode len data hc => ⟨fun hlen hdata => ?_,
    fun hdata hcb => exec_pktSend_absent hc hcb hdata, fun h hcb hdata =>
      ⟨bufferBytes s.freeCtr data len.toNat, length_bufferBytes .., ?_, exec_pktSend_user hc hcb hdata⟩⟩
  · rw [hdata]
    exact exec_pktSend_missing hc hlen
  · exact fun j => getElem?_bufferBytes_given s.freeCtr

/-- Settles O45: the bytes of the one call are those of a packet, which the other stack delivers. -/
theorem sentPacketIsDelivered : Obligations.SentPacketIsDelivered := by
  intro a b m n opcode payload h cb hca htx hlen hcb hfg hw hr hrx
  have hcnt := toNat_ofNat_length hlen
  have hsend := exec_pktSend_user (dest := (b.framer n).ownAddr) (opcode := opcode) (data := some payload)
    (len := BitVec.ofNat 8 payload.length) hca htx (.inr (Option.some_ne_none payload))
  rw [hcnt, bufferBytes_self] at hsend
  refine ⟨_, _, hsend, ?_, _,
    execAll_packetBytes ⟨hcb, hfg⟩ hr (a.framer m).ownAddr (b.framer n).ownAddr opcode hlen, ?_⟩
  · rw [List.length_append]
    rfl
  · obtain ⟨hcalled, -⟩ := (deliver_delivered n
      ((b.framer n).withPacket (a.framer m).ownAddr (b.framer n).ownAddr opcode payload) b).called cb hrx rfl
    rw [hcalled, framerPacket_withPacket hw hlen]

/-! ## `PHY.WRITE` as the transmit callback (R210, R214) -/

theorem fgTurn_writeCheck (hf : s.fg = .writeCheck data len :: fs) : fgTurn s = checkStep data len fs s := by
  simp [fgTurn, hf]

theorem checkStep_refused {r : Refusal} (h : writeCheck (bufferMissing data len) len s = .refuse r) :
    checkStep data len fs s = .refused r := by
  simp only [checkStep, h]

theorem checkStep_returns {st : Status} (h : writeCheck (bufferMissing data len) len s = .returns st) :
    checkStep data len fs s = .next { s with fg := fs, resp := .status (callbackStatus st) } := by
  simp only [checkStep, h]
  rfl

theorem writeCheck_notInitialised {missing : Bool} (ha : s.instanceActive = false) :
    writeCheck missing len s = .refuse .phyNotInitialised := by
  simp [writeCheck, ha]

theorem checkStep_notIdle (ha : s.instanceActive = true) (hpos : 0 < len) (hlen : len ≤ s.params.txbufCap)
    (hdata : data ≠ none) (hb : s.phy.busState ≠ .idle) : checkStep data len fs s = .refused .writeNotIdle :=
  checkStep_refused (by rw [bufferMissing_eq_false (.inr hdata), writeCheck_fits ha hpos hlen, if_neg hb])

theorem checkStep_begins (ha : s.instanceActive = true) (hpos : 0 < len) (hlen : len ≤ s.params.txbufCap)
    (hdata : data ≠ none) (hb : s.phy.busState = .idle) :
    checkStep data len fs s = .next { s with fg := .writeBegin data len true :: fs, resp := .inProgress } := by
  simp only [checkStep, bufferMissing_eq_false (.inr hdata), writeCheck_fits ha hpos hlen, if_pos hb]
  rfl

/-- The begin step of a `PHY.WRITE` that has been handed the whole string (R194). -/
theorem fgTurn_begin {bytes : List Byte} {inSend : Bool} (hf : s.fg = .writeBegin (some bytes) len inSend :: fs)
    (hbytes : bytes.length = len) (hpos : 0 < len) (hlen : len ≤ s.params.txbufCap)
    (hb : s.phy.busState = .idle) :
    fgTurn s = .next (((beginTransmission bytes s).setFg (.write inSend :: fs)).respond .inProgress) := by
  rw [fgTurn_writeBegin hf, writeBegin_idle hb hpos hlen, ← hbytes, bufferBytes_self]

/-- Settles O43: the call, then the check of `PHY.WRITE` case by case, and in Idle its begin. -/
theorem sendThroughPhyWrite : Obligations.SendThroughPhyWrite := by
  intro s n dest opcode len data hc htx hdata hw
  have hgiven (j : Nat) (hj : j < len.toNat) (hin : j < (data.getD []).length) :=
    getElem?_bufferBytes_given s.freeCtr hj hin
  have hlength := length_bufferBytes s.freeCtr data len.toNat
  have hsend := exec_pktSend_phyWrite (dest := dest) (opcode := opcode) hc htx hdata
  generalize bufferBytes s.freeCtr data len.toNat = payload at hgiven hlength hsend
  have hbytes : ([(s.framer n).ownAddr, dest, opcode, len] ++ payload).length = 4 + len.toNat := by
    rw [List.length_append, hlength]
    rfl
  generalize hv : s.sent _ _ = v at hsend
  obtain ⟨hfg, hphy, hactive, hparams, hresp⟩ :
      v.fg = .writeCheck (some ([(s.framer n).ownAddr, dest, opcode, len] ++ payload)) (4 + len.toNat) :: s.fg ∧
        v.phy = s.phy ∧ v.instanceActive = s.instanceActive ∧ v.params = s.params ∧ v.resp = .inProgress := by
    rw [← hv]
    exact ⟨rfl, rfl, rfl, rfl, rfl⟩
  have hpos : 0 < 4 + len.toNat := by omega
  refine ⟨payload, v, hlength, hgiven, hsend, hv.symm, ?_⟩
  rw [← hactive, ← hparams, fgTurn_writeCheck hfg]
  rw [← hphy] at hw ⊢
  refine ⟨fun ha => checkStep_refused (writeCheck_notInitialised ha),
    fun ha hlen => checkStep_returns (writeCheck_tooLong ha hlen),
    fun ha hlen => checkStep_notIdle ha hpos hlen (Option.some_ne_none _), fun ha hlen hb => ?_⟩
  have hword := beginTransmission_word (bytes := [(s.framer n).ownAddr, dest, opcode, len] ++ payload) hw
  refine ⟨_, _, checkStep_begins ha hpos hlen (Option.some_ne_none _) hb, fgTurn_begin rfl hbytes hpos hlen hb, ?_,
    fun j b hj => (hword j).trans ?_, fun j hj => (hword j).trans ?_⟩
  · rw [← hbytes, hresp]
    rfl
  · rw [hj]
    rfl
  · rw [List.getElem?_eq_none (by rwa [hbytes])]
    rfl

/-! ## The return of a callback (R213, R214) -/

theorem step_cbReturn {st : Status} (he : edgeDeliverable s = false) (hsched : s.sched = .fg :: rest)
    (hin : s.fgIn = .cbReturn st :: ins) (hfg : s.fg = .sendCb :: fs ∨ s.fg = .recvCb n :: fs) :
    step s = returnFromCallback st ((s.setSched rest).setFgIn ins) := by
  rw [step_fgTurn he hsched, fgTurn_takesInput (s := s.setSched rest) (.inr ⟨fs, hfg.imp_right fun h => ⟨n, h⟩⟩)]
  simp [fgInput, hin]

theorem returnFromCallback_send (st : Status) (hf : s.fg = .sendCb :: fs) :
    returnFromCallback st s = .next { s with fg := fs, resp := .status (callbackStatus st) } := by
  simp only [returnFromCallback, hf]
  rfl

theorem returnFromCallback_receive (st : Status) (hf : s.fg = .recvCb n :: fs) :
    returnFromCallback st s =
      .next { s with fg := noteFailure st fs, resp := .status (callbackStatus st) } := by
  simp only [returnFromCallback, hf]
  rfl

theorem noteFailure_outside (st : Status) (h : ∀ m r f gs, fs ≠ .rxbuf m r f :: gs) : noteFailure st fs = fs := by
  unfold noteFailure
  split
  · exact absurd rfl (h _ _ _ _)
  · rfl

theorem noteFailure_rxbuf (st : Status) (m : Nat) (r : List Byte) (f : Bool) (gs : List FgFrame) :
    noteFailure st (.rxbuf m r f :: gs) = .rxbuf m r (f || decide (st ≠ .ok)) :: gs := by
  cases st <;> rfl

/-- Settles O41, by the callback that returns and what it was called from. -/
theorem callbackReturnEndsOperation : Obligations.CallbackReturnEndsOperation := by
  intro s st fs rest ins n he hsched hin
  refine ⟨fun hf => ?_, fun hf hout => ?_, fun m r f gs hf => ?_⟩
  · rw [step_cbReturn (n := n) he hsched hin (.inl hf)]
    exact returnFromCallback_send (s := (s.setSched rest).setFgIn ins) st hf
  · rw [step_cbReturn he hsched hin (.inr hf),
      returnFromCallback_receive (s := (s.setSched rest).setFgIn ins) st hf, noteFailure_outside st hout]
    rfl
  · rw [step_cbReturn he hsched hin (.inr hf),
      returnFromCallback_receive (s := (s.setSched rest).setFgIn ins) st hf, noteFailure_rxbuf]
    rfl

end Sys2Proof.Machine
end

section
/-! # Masked events, remembered edges and the agent of an operation (spec/60_exceptions.md R237, R240, R243)

An event while its interrupt is disabled is no step, and of an edge the external detector's memory decides what is left.
The column `agent` of 30_encoding R103 parts the `op` bytes in three, so the agent of an operation word is the one in
whose part its `op` byte stands; what the other agent is offered ends in `runCode`. -/

namespace Sys2Proof

variable {i : Instr} {p q : Performer} {op arg : Byte}

/-! ## The column `agent` (30_encoding R103) -/

/-- The `op` bytes of each agent's operations, and of those that either performs. -/
def opsOf : Performer → List Byte
  | .irqOnly => [0x01, 0x10, 0x11, 0x12, 0x13, 0x14, 0x24, 0x25]
  | .anyAgent => [0x06, 0x07, 0x26]
  | .fgOnly => [0x00, 0x02, 0x03, 0x04, 0x05, 0x08, 0x20, 0x21, 0x22, 0x23, 0x30, 0x31, 0x32]

/-- No `op` byte stands in two parts of the column. -/
theorem opsOf_disjoint (hp : op ∈ opsOf p) (hq : op ∈ opsOf q) : p = q := by
  have hparts : ∀ b ∈ opsOf p, b ∈ opsOf q → p = q := by cases p <;> cases q <;> decide
  exact hparts op hp hq

theorem opByte_mem_opsOf (hword : i.word = (opWord op arg).setWidth 32) (hp : i.performer = p)
    (hop : op ∈ opsOf p) : i.word.extractLsb' 8 8 ∈ opsOf i.performer := by
  rwa [hword, opWord_op, hp]

theorem opByte_mem_opsOf_performer (hi : i.format = .opw) :
    i.word.extractLsb' 8 8 ∈ opsOf i.performer := by
  cases i with
  | fifoPush | decStart | decEdge | decSample | decWant | decReset | phyEdgeirq | phyTick =>
    exact opByte_mem_opsOf (p := .irqOnly) rfl rfl (by decide)
  | fifoCap | fifoLen | fmt => exact opByte_mem_opsOf (p := .anyAgent) rfl rfl (by decide)
  | fifoInit | fifoPop | fifoPeek | fifoReadn | fifoClear | fifoFree | phyInit | phyTxen | phyWrite | phyRead
  | pktInit | pktRxbyte | pktSend => exact opByte_mem_opsOf (p := .fgOnly) rfl rfl (by decide)
  | frame22 | fmtword | pkthdr => cases hi

/-- The agent of an operation word is the one in whose part of the column its `op` byte stands. -/
theorem performer_eq_iff (hi : i.format = .opw) (p : Performer) :
    i.performer = p ↔ i.word.extractLsb' 8 8 ∈ opsOf p := by
  have hmem := opByte_mem_opsOf_performer hi
  exact ⟨fun h => h ▸ hmem, opsOf_disjoint hmem⟩

/-- A wire format has the agent of the pseudo-operation it stands for (log entry 16). -/
theorem performer_wireFormat (i : Instr) :
    (i.format = .frame22 ∨ i.format = .fmtword → i.performer = .irqOnly) ∧
      (i.format = .pkthdr → i.performer = .fgOnly) := by
  cases i with
  | frame22 | fmtword => exact ⟨fun _ => rfl, nofun⟩
  | pkthdr => exact ⟨fun h => h.elim nofun nofun, fun _ => rfl⟩
  | _ => exact ⟨fun h => h.elim nofun nofun, nofun⟩

end Sys2Proof

namespace Sys2Proof.Machine

variable {s : State} {c : Code} {i : Instr}

/-! ## Masked events (R237, R240) -/

theorem exec_phyTick_masked (ha : s.instanceActive = true) (ht : s.phy.timerRunning = false) (l : Bool) :
    exec (.phyTick l) s = .next { s with resp := .noStep } :=
  (withPhyInitialised_pass ha _).trans (if_pos (by simp [ht]))

theorem missEdge_forgets (hp : s.params.edgePendingOnRearm = false) : missEdge s = s := by
  rw [missEdge, hp, Bool.or_false]
  rfl

theorem missEdge_remembers (hp : s.params.edgePendingOnRearm = true) :
    missEdge s = s.setPhy { s.phy with edgePending := true } := by
  rw [missEdge, hp, Bool.or_true]

/-- Settles O23: a masked tick is its own case of `PHY.TICK`, and a masked edge only reaches the detector's memory, which
forgets it. -/
theorem maskedEventsAreNoStep : Obligations.MaskedEventsAreNoStep := by
  refine fun s l ha => ⟨fun ht => exec_phyTick_masked ha ht l, fun he hp => ?_⟩
  rw [exec_phyEdgeirq_masked ha he, missEdge_forgets hp]
  rfl

/-! ## Remembered edges (R237; log entry 14) -/

/-- A deliverable edge comes before the turn of any agent. -/
theorem step_deliversEdge (h : edgeDeliverable s = true) : step s = exec .phyEdgeirq s := if_pos h

/-- Settles O53: the detector keeps a masked edge, and the step at which it is delivered is an edge while armed. -/
theorem rememberedEdgeStartsFrameAtOnce : Obligations.RememberedEdgeStartsFrameAtOnce := by
  refine fun s ha => ⟨fun he hp => ?_, fun hpending he ho => ?_⟩
  · rw [exec_phyEdgeirq_masked ha he, missEdge_remembers hp]
    rfl
  · have hdeliver : edgeDeliverable s = true := by simp [edgeDeliverable, hpending, he]
    rw [step_deliversEdge hdeliver, exec_phyEdgeirq_starts ha he ho]
    rfl

/-! ## The wrong agent (R243) -/

theorem runCode_wrongAgent {a : Agent} (hd : decode c = .ok i) (ha : i.performer.allows a = false) :
    runCode a c s = .refused .wrongAgent := by
  simp [runCode, hd, ha]

/-- Settles O52: the column by the part in which an `op` byte stands, and the refusal by the code an agent performs in
its turn. -/
theorem wrongAgentIsRefused : Obligations.WrongAgentIsRefused := by
  refine ⟨fun i hi => ⟨performer_eq_iff hi .irqOnly, performer_eq_iff hi .anyAgent, performer_eq_iff hi .fgOnly⟩,
    performer_wireFormat, fun s c i turns ins he hd => ⟨fun hsched hin hp => ?_, fun hsched hin hp hfg => ?_⟩⟩
  · rw [step_irq_op he hsched hin, runCode_wrongAgent hd (by rw [hp]; rfl)]
  · rw [step_fg_op he hsched hin hfg, runCode_wrongAgent hd (by rw [hp]; rfl)]

end Sys2Proof.Machine
end

section
/-! # Ticks lead back to Idle (spec/70_reset_and_hazards.md R284)

`LeadsToIdle n s` says that `n` ticks, and any more, end with the bus in Idle. It is built up tick by tick, and a tick
of a frame or of a transmission leaves one tick fewer to come. -/

namespace Sys2Proof.Machine

variable {s : State} {d : Decoder} {l : Bool} {m n len : Nat}

/-! ## Idle is kept by ticks -/

/-- The bus is in Idle, and ticks are masked. -/
structure BackInIdle (s : State) : Prop where
  active : s.instanceActive = true
  timer : s.phy.timerRunning = false
  bus : s.phy.busState = .idle

theorem BackInIdle.tick (h : BackInIdle s) (l : Bool) : ∃ t, exec (.phyTick l) s = .next t ∧ BackInIdle t :=
  ⟨_, exec_phyTick_masked h.active h.timer l, h.active, h.timer, h.bus⟩

theorem BackInIdle.execAll_ticks (h : BackInIdle s) (ls : List Bool) :
    ∃ t, execAll (ls.map .phyTick) s = .next t ∧ BackInIdle t := by
  induction ls generalizing s with
  | nil => exact ⟨s, rfl, h⟩
  | cons l ls ih =>
    obtain ⟨u, hu, hidle⟩ := h.tick l
    obtain ⟨t, ht, hdone⟩ := ih hidle
    exact ⟨t, (execAll_cons_next hu).trans ht, hdone⟩

/-- Any `n` ticks or more lead to Idle, whatever their levels. -/
def LeadsToIdle (n : Nat) (s : State) : Prop :=
  ∀ ls : List Bool, n ≤ ls.length → ∃ t, execAll (ls.map .phyTick) s = .next t ∧ BackInIdle t

theorem LeadsToIdle.mono (h : LeadsToIdle m s) (hle : m ≤ n) : LeadsToIdle n s :=
  fun ls hlen => h ls (hle.trans hlen)

theorem BackInIdle.leadsToIdle (h : BackInIdle s) : LeadsToIdle n s := fun ls _ => h.execAll_ticks ls

/-- One tick, and what is left after it. -/
theorem LeadsToIdle.of_tick (h : ∀ l, ∃ t, exec (.phyTick l) s = .next t ∧ LeadsToIdle n t) :
    LeadsToIdle (n + 1) s := by
  rintro (_ | ⟨l, ls⟩) hlen
  · exact absurd hlen (Nat.not_succ_le_zero n)
  · obtain ⟨u, hu, hrest⟩ := h l
    obtain ⟨t, ht, hdone⟩ := hrest ls (Nat.le_of_succ_le_succ hlen)
    exact ⟨t, (execAll_cons_next hu).trans ht, hdone⟩

/-! ## From Rx (R175, R176) -/

/-- How many ticks complete the frame in progress: two for each sample before the last and one for the last, with one
more first when an edge is expected. -/
def ticksToFrameEnd (d : Decoder) : Nat := 43 - 2 * d.totalCnt.toNat + d.expectingEdge.toNat

/-- An edge is expected only after a sample (10_state R25 iv), so no frame takes more than its 43 ticks. -/
theorem ticksToFrameEnd_le (hd : DecInv d) : ticksToFrameEnd d ≤ 43 := by
  rw [ticksToFrameEnd]
  cases he : d.expectingEdge with
  | false => exact Nat.sub_le ..
  | true =>
    obtain ⟨-, hsampled⟩ := hd.edgeAfterSample he
    simp only [Bool.toNat_true]
    omega

/-- A tick that does not finish the frame leaves one tick fewer. -/
theorem decFeedTick_counts_down (hd : DecInv d) (ho : d.ongoing = true)
    (hfin : (decFeedTick l d).1.finished = false) :
    ticksToFrameEnd (decFeedTick l d).2 + 1 = ticksToFrameEnd d := by
  cases he : d.expectingEdge with
  | true =>
    rw [decFeedTick_edge (.inr he), decEdge_releases ho he]
    simp [ticksToFrameEnd, he]
  | false =>
    rw [decFeedTick_sample ho he] at hfin ⊢
    obtain hlast | hlt := hd.totalInRange.eq_or_lt
    · rw [decSample_reports ho he (BitVec.eq_of_toNat_eq hlast)] at hfin
      exact nomatch hfin
    · have hedge : (decAdvance (decAbsorb l d)).expectingEdge = true := rfl
      rw [decSample_takes ho he hlt, ticksToFrameEnd, ticksToFrameEnd, toNat_totalCnt_succ hlt, hedge, he]
      simp only [Bool.toNat_true, Bool.toNat_false]
      omega

/-- A frame is being received, into a FIFO that can take its byte. -/
structure FrameUnderWay (s : State) : Prop extends Receiving s where
  inv : DecInv s.dec
  ongoing : s.dec.ongoing = true
  valid : s.fifo.valid = true
  inRange : fifoInv s.fifo

/-- The completion of a frame leads to Idle, whether its byte is pushed, or counted as an overflow, or its errors are
counted (R176). -/
theorem completeFrame_backInIdle (ha : s.instanceActive = true) (hv : s.fifo.valid = true) (hinv : fifoInv s.fifo)
    (r : DecResult) : ∃ t, completeFrame r s = .next t ∧ BackInIdle t := by
  by_cases h0 : r.errorFlags = 0
  · obtain ⟨hesz, -, -, hw⟩ := hinv hv
    obtain ⟨st, g, hp⟩ := fifoPush_total (elem := receivedElement r.data s) hw
    exact ⟨_, completeFrame_clean h0 hv hesz hp, ha, rfl, rfl⟩
  · exact ⟨_, completeFrame_erroneous h0, ha, rfl, rfl⟩

/-- A tick in Rx completes the frame or leaves one tick fewer. -/
theorem FrameUnderWay.tick (h : FrameUnderWay s) (l : Bool) :
    ∃ t, exec (.phyTick l) s = .next t ∧
      (BackInIdle t ∨ FrameUnderWay t ∧ ticksToFrameEnd t.dec + 1 = ticksToFrameEnd s.dec) := by
  obtain ⟨hfin, -⟩ | ⟨hfin, hongoing⟩ := decFeedTick_result l s.dec
  · obtain ⟨t, ht, hidle⟩ := completeFrame_backInIdle (s := s.setDec (decFeedTick l s.dec).2) h.active h.valid
      h.inRange (decFeedTick l s.dec).1
    have hanswer := congrArg (thenRespond (.status .ok)) ht
    exact ⟨t.respond (.status .ok), (exec_phyTick_completes h.toReceiving rfl hfin).trans hanswer,
      .inl ⟨hidle.active, hidle.timer, hidle.bus⟩⟩
  · refine ⟨_, exec_phyTick_feeds h.toReceiving rfl hfin, .inr ⟨?_, decFeedTick_counts_down h.inv h.ongoing hfin⟩⟩
    exact { h with inv := decFeedTick_keeps_decInv l h.inv, ongoing := hongoing.trans h.ongoing }

/-- By induction on the ticks that are left. -/
theorem FrameUnderWay.leadsToIdle (h : FrameUnderWay s) (hn : ticksToFrameEnd s.dec ≤ n) : LeadsToIdle n s := by
  induction n generalizing s with
  | zero =>
    have hrange := h.inv.totalInRange
    rw [ticksToFrameEnd] at hn
    omega
  | succ n ih =>
    refine .of_tick fun l => ?_
    obtain ⟨t, ht, hidle | ⟨hnext, hfewer⟩⟩ := h.tick l
    · exact ⟨t, ht, hidle.leadsToIdle⟩
    · exact ⟨t, ht, ih hnext (by omega)⟩

theorem BlockInv.frameUnderWay (hs : BlockInv s) (ha : s.instanceActive = true) (hv : s.fifo.valid = true)
    (hb : s.phy.busState = .rx) (hframe : rxMatchesDecoder s) : FrameUnderWay s where
  active := ha
  timer := hs.bus.timer.2 (.inl hb)
  bus := hb
  inv := hs.decoder
  ongoing := hframe.2 hb
  valid := hv
  inRange := hs.fifo

/-! ## From Tx (R197 to R199) -/

/-- A tick in Tx ends the transmission or carries it on. -/
theorem Sending.tick (h : Sending len n s) (l : Bool) :
    ∃ t, exec (.phyTick l) s = .next t ∧ (BackInIdle t ∨ Sending len (n + 1) t) := by
  rcases Nat.mod_two_eq_zero_or_one n with heven | hodd
  · exact ⟨_, h.exec_drive heven l, .inr (h.drive heven)⟩
  · refine ⟨_, h.exec_readBack hodd l, ?_⟩
    obtain hlast | hmore := (Nat.succ_le_of_lt h.more).eq_or_lt
    · have hended := h.readBack_last hlast
      exact .inl ⟨h.active, hended.timer, hended.bus⟩
    · exact .inr (h.readBack hodd hmore)

/-- By induction on the ticks that are left. -/
theorem Sending.leadsToIdle (h : Sending len n s) (hm : 44 * len ≤ n + m) : LeadsToIdle m s := by
  induction m generalizing n s with
  | zero => exact absurd hm h.more.not_ge
  | succ m ih =>
    refine .of_tick fun l => ?_
    obtain ⟨t, ht, hidle | hnext⟩ := h.tick l
    · exact ⟨t, ht, hidle.leadsToIdle⟩
    · exact ⟨t, ht, ih hnext (by omega)⟩

/-- The cursors and the phase of a transmission in progress say how many of its ticks are done. -/
theorem BlockInv.sending (hs : BlockInv s) (ha : s.instanceActive = true) (hb : s.phy.busState = .tx) :
    Sending s.phy.txLen (2 * (22 * s.phy.txByteCur + s.phy.txBitCur.toNat) + s.phy.collate.toNat) s := by
  obtain ⟨-, hcap, hbyte, hbit⟩ := hs.bus.cursors hb
  have hphase := Bool.toNat_le s.phy.collate
  exact
    { active := ha
      timer := hs.bus.timer.2 (.inr hb)
      bus := hb
      length := rfl
      fits := hcap
      more := by omega
      byte := by omega
      bit := by omega
      phase := by cases s.phy.collate <;> simp }

/-! ## The obligation -/

theorem not_atRest (hb : s.phy.busState ≠ .idle) : ¬ atRest s := fun h => hb h.1

/-- Settles O37: the invariants make a state in Rx one of a frame being received, and a state in Tx one of a
transmission in progress. -/
theorem ticksLeadBackToIdle : Obligations.TicksLeadBackToIdle := by
  refine fun s hs ha hv => ⟨fun hb => ⟨not_atRest (by simp [hb]), fun hframe ls hlen => ?_⟩,
    fun hb => ⟨not_atRest (by simp [hb]), fun ls hlen => ?_⟩⟩
  · have hreceiving := hs.frameUnderWay ha hv hb hframe
    obtain ⟨t, ht, hidle⟩ := hreceiving.leadsToIdle (ticksToFrameEnd_le hs.decoder) ls hlen.ge
    exact ⟨t, ht, hidle.bus⟩
  · obtain ⟨t, ht, hidle⟩ := (hs.sending ha hb).leadsToIdle (Nat.le_add_left ..) ls hlen.ge
    exact ⟨t, ht, hidle.bus⟩

end Sys2Proof.Machine
end
